-- ==== Sys2Proof/Word.lean ====
section
/-! DEFINITION. The bit patterns that cross the ports of `fp_fma_engine` (R7, R21, R31). The block
has no byte, no address and no register word: a pattern is one unsigned integer on one bus, bit 0
its least significant bit. -/

namespace Sys2Proof

/-- A 32-bit pattern: an operand port, the result port, an FP32 pattern (R7, R31). -/
abbrev Word32 := BitVec 32

/-- A 16-bit pattern: an FP16 or a BF16 pattern (R21, R50). -/
abbrev Word16 := BitVec 16

/-- The command word `CMD[4:0] = (ovf_en, fmt, op)` (R34). -/
abbrev Cmd := BitVec 5

end Sys2Proof
end

