-- ==== Sys2Proof/Syntax.lean ====
section
/-! DEFINITION. The seven operations of the block, one constructor of `Instr` for each row of
`spec/opcode_table.json` (R39), with the operation and the format each stands for (R35, R36). -/

namespace Sys2Proof

/-- The operations that `op` selects (R35). -/
inductive Op where
  | fma
  | widen
  | narrow
  deriving DecidableEq, Repr

/-- The format descriptors that `fmt` selects (R36, R50), in the source's order. -/
inductive Fmt where
  | fp32
  | fp16
  | bf16
  deriving DecidableEq, Repr

/-- The two narrow formats (glossary; R3): what WIDEN reads and NARROW returns. -/
inductive NarrowFmt where
  | fp16
  | bf16
  deriving DecidableEq, Repr

/-- A decoded command (R39, R42). The operands are no part of a command: they stand on the ports
`a`, `b`, `c` (R34). Each constructor carries `CMD[4]`: `ovfEn` where the bit runs the overflow
policy, `v` where it is ignored (R37), so that no bit of a command is lost. -/
inductive Instr where
  /-- FMA.FP32, `v0000`, form T (R110). -/
  | fmaFp32 (v : Bool)
  /-- FMA.FP16, `v0100`, form T16 (R111). -/
  | fmaFp16 (ovfEn : Bool)
  /-- FMA.BF16, `v1000`, form T16 (R112). -/
  | fmaBf16 (ovfEn : Bool)
  /-- WIDEN.FP16, `v0101`, form U16 (R61). -/
  | widenFp16 (v : Bool)
  /-- WIDEN.BF16, `v1001`, form U16 (R62). -/
  | widenBf16 (v : Bool)
  /-- NARROW.FP16, `v0110`, form U32 (R88). -/
  | narrowFp16 (v : Bool)
  /-- NARROW.BF16, `v1010`, form U32 (R89). -/
  | narrowBf16 (v : Bool)
  deriving DecidableEq, Repr

/-- The operation a command stands for (R39). -/
def Instr.op : Instr → Op
  | .fmaFp32 _ => .fma
  | .fmaFp16 _ => .fma
  | .fmaBf16 _ => .fma
  | .widenFp16 _ => .widen
  | .widenBf16 _ => .widen
  | .narrowFp16 _ => .narrow
  | .narrowBf16 _ => .narrow

/-- The format a command names (R39). -/
def Instr.fmt : Instr → Fmt
  | .fmaFp32 _ => .fp32
  | .fmaFp16 _ => .fp16
  | .fmaBf16 _ => .bf16
  | .widenFp16 _ => .fp16
  | .widenBf16 _ => .bf16
  | .narrowFp16 _ => .fp16
  | .narrowBf16 _ => .bf16

/-- `CMD[4]` of a command, read or ignored (R37). -/
def Instr.bit4 : Instr → Bool
  | .fmaFp32 v => v
  | .fmaFp16 v => v
  | .fmaBf16 v => v
  | .widenFp16 v => v
  | .widenBf16 v => v
  | .narrowFp16 v => v
  | .narrowBf16 v => v

/-- The row of `spec/opcode_table.json`, by its mnemonic. -/
def Instr.mnemonic : Instr → String
  | .fmaFp32 _ => "FMA.FP32"
  | .fmaFp16 _ => "FMA.FP16"
  | .fmaBf16 _ => "FMA.BF16"
  | .widenFp16 _ => "WIDEN.FP16"
  | .widenBf16 _ => "WIDEN.BF16"
  | .narrowFp16 _ => "NARROW.FP16"
  | .narrowBf16 _ => "NARROW.BF16"

end Sys2Proof
end

