-- ==== Sys2Proof/Machine/Formats.lean ====
section
/-! DEFINITION. The three data formats: descriptors, fields, classes and values (R50 to R59). The
functions read a pattern as a natural number, as the spec's pseudocode does (R8), and are
parameterised by the descriptor (R76: "parameterized only by field widths and bias"). -/

namespace Sys2Proof.Machine

/-- A format descriptor `(W, E, M, bias)` (R50). -/
structure FormatDesc where
  W    : Nat
  E    : Nat
  M    : Nat
  bias : Nat
  deriving DecidableEq, Repr

/-- FP32, `1:8:23`, bias 127 (R50). -/
def fp32 : FormatDesc := ⟨32, 8, 23, 127⟩

/-- FP16, `1:5:10`, bias 15 (R50). -/
def fp16 : FormatDesc := ⟨16, 5, 10, 15⟩

/-- BF16, `1:8:7`, bias 127 (R50). -/
def bf16 : FormatDesc := ⟨16, 8, 7, 127⟩

/-- The descriptor that `fmt` names (R36, R50). -/
def descOf : Fmt → FormatDesc
  | .fp32 => fp32
  | .fp16 => fp16
  | .bf16 => bf16

/-- The descriptor of a narrow format (R50). -/
def narrowDesc : NarrowFmt → FormatDesc
  | .fp16 => fp16
  | .bf16 => bf16

/-- `EMAX = 2^E - 1`, the all-ones exponent (R50). -/
def emax (F : FormatDesc) : Nat := 2 ^ F.E - 1

/-- `lowbits(v, n)` (R8). -/
def lowbits (v n : Nat) : Nat := v % 2 ^ n

/-- `or_reduce(v)` (R8). -/
def orReduce (v : Nat) : Nat := if v ≠ 0 then 1 else 0

/-- `sint_N(v)`: the two's-complement reading of an `N`-bit pattern (R8). -/
def sint (n v : Nat) : Int := if v < 2 ^ (n - 1) then v else (v : Int) - 2 ^ n

/-- `sign(x) = x[W-1]` (R51). -/
def signOf (F : FormatDesc) (x : Nat) : Bool := x.testBit (F.W - 1)

/-- `exp(x) = x[W-2 : M]`, the biased exponent (R51). -/
def expOf (F : FormatDesc) (x : Nat) : Nat := (x >>> F.M) % 2 ^ F.E

/-- `man(x) = x[M-1 : 0]` (R51). -/
def manOf (F : FormatDesc) (x : Nat) : Nat := x % 2 ^ F.M

/-- `sign << (W-1) | exp << M | man` (R51): the pattern of three fields. -/
def pack (F : FormatDesc) (s : Bool) (e m : Nat) : Nat :=
  (s.toNat <<< (F.W - 1)) ||| (e <<< F.M) ||| m

/-- The three fields of a pattern (R51). -/
def fieldsOf (F : FormatDesc) (x : Nat) : Bool × Nat × Nat := (signOf F x, expOf F x, manOf F x)

/-- The five classes (R52). -/
inductive FpClass where
  | zero
  | subnormal
  | normal
  | infinity
  | nan
  deriving DecidableEq, Repr

/-- The class of a pattern, by its exponent and mantissa alone (R52). -/
def classOf (F : FormatDesc) (x : Nat) : FpClass :=
  if expOf F x = 0 then
    if manOf F x = 0 then .zero else .subnormal
  else if expOf F x = emax F then
    if manOf F x = 0 then .infinity else .nan
  else .normal

/-- `is_zero_F` (R52). -/
def isZero (F : FormatDesc) (x : Nat) : Bool := classOf F x == .zero

/-- `is_inf_F` (R52). -/
def isInf (F : FormatDesc) (x : Nat) : Bool := classOf F x == .infinity

/-- `is_nan_F` (R52). No pattern is quiet or signalling: the top mantissa bit is read by no rule. -/
def isNan (F : FormatDesc) (x : Nat) : Bool := classOf F x == .nan

/-- A pattern with a real value: zero, subnormal or normal (R53). -/
def isFinite (F : FormatDesc) (x : Nat) : Bool := expOf F x != emax F

/-- The magnitude of a finite pattern in units of the format's smallest subnormal,
`2^(1 - bias - M)` (R53): every finite value is a whole number of them. -/
def unitsOf (F : FormatDesc) (x : Nat) : Nat :=
  if expOf F x = 0 then manOf F x else (2 ^ F.M + manOf F x) <<< (expOf F x - 1)

/-- The exponent of that unit, negated: a finite magnitude is `unitsOf F x / 2 ^ unitScale F`. -/
def unitScale (F : FormatDesc) : Nat := F.bias + F.M - 1

/-- The values a pattern can have (R53): +0 and -0, which the sign tells apart, a non-zero real (exact,
R9), and the two infinities. -/
inductive FpValue where
  | zero (negative : Bool)
  | real (q : ℚ)
  | infinity (negative : Bool)
  deriving DecidableEq, Repr

/-- `val_F(x)` (R53): a NaN has no value. -/
def valOf (F : FormatDesc) (x : Nat) : Option FpValue :=
  match classOf F x with
  | .zero => some (.zero (signOf F x))
  | .subnormal =>
    some (.real ((-1) ^ (signOf F x).toNat * (manOf F x : ℚ) * 2 ^ (1 - (F.bias : Int) - F.M)))
  | .normal =>
    some (.real ((-1) ^ (signOf F x).toNat * (2 ^ F.M + manOf F x : ℚ)
      * 2 ^ ((expOf F x : Int) - F.bias - F.M)))
  | .infinity => some (.infinity (signOf F x))
  | .nan => none

/-- A value as a real number: either zero is 0 (R53), an infinity is no real. -/
def realOfValue : FpValue → Option ℚ
  | .zero _ => some 0
  | .real q => some q
  | .infinity _ => none

/-- The finite real that a pattern's value is (R53), where it is one; what the rules over reals take
(R103, R104, R133). -/
def realOf (F : FormatDesc) (x : Nat) : Option ℚ := (valOf F x).bind realOfValue

/-- The ULP of a finite non-zero pattern: `2^(max(exp(x), 1) - bias - M)` (R59). -/
def ulpOf (F : FormatDesc) (x : Nat) : ℚ := 2 ^ ((max (expOf F x) 1 : Int) - F.bias - F.M)

end Sys2Proof.Machine
end

