-- ==== Sys2Proof/Machine/Rounder.lean ====
section
/-! DEFINITION. `fp_rounder`: round to nearest, ties to even, by a round bit and a sticky bit, and
nothing else (R70 to R76). -/

namespace Sys2Proof.Machine

/-- The bits that remain (R71). -/
def rneKept (v n : Nat) : Nat := v >>> n

/-- The first discarded bit (R71); there is none for `n = 0`. -/
def rneRound (v n : Nat) : Nat := (v >>> (n - 1)) &&& 1

/-- All remaining discarded bits OR'd together (R71). -/
def rneSticky (v n : Nat) : Nat := orReduce (lowbits v (n - 1))

/-- The increment decision of R71 and R72, from the round bit, the sticky bit and the least
significant kept bit. -/
def rneInc (round sticky lsb : Nat) : Nat := round &&& (sticky ||| lsb)

/-- `rne_shift(v, n)` (R71). -/
def rneShift (v n : Nat) : Nat :=
  if n = 0 then v
  else rneKept v n + rneInc (rneRound v n) (rneSticky v n) (rneKept v n &&& 1)

/-- `RNE_int(r)` (R9): the integer nearest to `r`, the even one when `r` lies half-way. -/
def rneInt (r : ℚ) : Int :=
  if r - ⌊r⌋ < 1 / 2 then ⌊r⌋
  else if 1 / 2 < r - ⌊r⌋ then ⌊r⌋ + 1
  else if ⌊r⌋ % 2 = 0 then ⌊r⌋ else ⌊r⌋ + 1

end Sys2Proof.Machine
end

