-- ==== Sys2Proof/Machine/Narrow.lean ====
section
/-! DEFINITION. `fp_format_converter`, FP32 to narrow (R80 to R95): lossy, rounds to nearest even
except in the two regions of R91, which are the source's own. -/

namespace Sys2Proof.Machine

/-- The normal arm in range (R85) with the carry out of the mantissa field (R86). -/
def narrowNormal (F : FormatDesc) (s : Bool) (e : Nat) (m32 : Nat) : Nat :=
  let m := rneShift m32 (23 - F.M)
  if m = 2 ^ F.M then
    if e + 1 = emax F then pack F s (emax F) 0 else pack F s (e + 1) 0
  else pack F s e m

/-- The underflow arm (R87): `sh = 1 - e` is the required right shift; a shift beyond the mantissa
field gives the signed zero, and a mantissa that rounds up to `2^M` is the smallest normal. -/
def narrowUnderflow (F : FormatDesc) (s : Bool) (sh : Nat) (m32 : Nat) : Nat :=
  if sh > F.M then pack F s 0 0
  else
    let m := rneShift (2 ^ 23 + m32) (23 - F.M + sh)
    if m = 2 ^ F.M then pack F s 1 0 else pack F s 0 m

/-- `narrow_F(x)` of R80, arm by arm (R81 to R87). The overflow threshold is the all-ones exponent,
`e >= EMAX` (R84, conflict C4). -/
def narrowGeneric (F : FormatDesc) (x : Word32) : Word16 :=
  let s := signOf fp32 x.toNat
  let e32 := expOf fp32 x.toNat
  let m32 := manOf fp32 x.toNat
  if e32 = 0 then BitVec.ofNat 16 (pack F s 0 0)
  else if e32 = 255 ∧ m32 = 0 then BitVec.ofNat 16 (pack F s (emax F) 0)
  else if e32 = 255 then
    let m := m32 >>> (23 - F.M)
    BitVec.ofNat 16 (pack F s (emax F) (if m = 0 then 1 else m))
  else
    let e : Int := (e32 : Int) - 127 + F.bias
    if e ≥ emax F then BitVec.ofNat 16 (pack F s (emax F) 0)
    else if e ≥ 1 then BitVec.ofNat 16 (narrowNormal F s e.toNat m32)
    else BitVec.ofNat 16 (narrowUnderflow F s (1 - e).toNat m32)

/-- `narrow_FP16` (R88). -/
def narrowFp16 (x : Word32) : Word16 := narrowGeneric fp16 x

/-- `narrow_BF16` (R89). -/
def narrowBf16 (x : Word32) : Word16 := narrowGeneric bf16 x

/-- `narrow_F` for a narrow format (R88, R89). -/
def narrow : NarrowFmt → Word32 → Word16
  | .fp16, x => narrowFp16 x
  | .bf16, x => narrowBf16 x

end Sys2Proof.Machine
end

