-- ==== Sys2Proof/WellFormed.lean ====
section
/-! DEFINITION. Which commands are legal (R35, R36, R39), on the syntax and on the bits of `CMD`.
`Instr` has a constructor for legal commands only, so every `Instr` is well formed; the checks below
say what a pair of an operation and a format, or a five-bit word, must meet to be one. -/

namespace Sys2Proof

/-- The column "legal with" of R36: FP32 goes with FMA only, FP16 and BF16 with all three. -/
def opFmtLegal : Op → Fmt → Bool
  | .fma, .fp32 => true
  | .fma, .fp16 => true
  | .fma, .bf16 => true
  | .widen, .fp32 => false
  | .widen, .fp16 => true
  | .widen, .bf16 => true
  | .narrow, .fp32 => false
  | .narrow, .fp16 => true
  | .narrow, .bf16 => true

/-- A command is well formed when its operation and its format go together (R36). Both values of
`CMD[4]` are legal with every operation (R37). -/
def Instr.wellFormed (i : Instr) : Bool := opFmtLegal i.op i.fmt

/-- `op = 11` is reserved (R35). -/
def cmdOpLegal (cmd : Cmd) : Bool := cmd.extractLsb' 0 2 != 3#2

/-- `fmt = 11` is reserved (R36). -/
def cmdFmtLegal (cmd : Cmd) : Bool := cmd.extractLsb' 2 2 != 3#2

/-- `fmt = 00` is legal with `op = 00` (FMA) only (R36). -/
def cmdFp32Legal (cmd : Cmd) : Bool :=
  cmd.extractLsb' 2 2 != 0#2 || cmd.extractLsb' 0 2 == 0#2

/-- A five-bit word is a legal command when it passes the three checks (R36, R39, R141). -/
def cmdWellFormed (cmd : Cmd) : Bool := cmdOpLegal cmd && cmdFmtLegal cmd && cmdFp32Legal cmd

end Sys2Proof
end

