-- ==== Sys2Proof/Decode.lean ====
section
/-! DEFINITION. The decoder of an accepted request (R39, R42), total on the 32 values of `CMD`, the
encoder written from the same table, the assembler's nine forms (R41), and the reading of a word of
the opcode table. Decode depends on `CMD` only, never on the operands (R42). -/

namespace Sys2Proof

/-- The three causes for which R141 calls a command reserved, each carrying the command: what
`raise IllegalCommand(CMD)` of R42 says. -/
inductive DecodeError where
  /-- `op = 11` (R35). -/
  | reservedOp (cmd : Cmd)
  /-- `fmt = 11` (R36). -/
  | reservedFmt (cmd : Cmd)
  /-- `fmt = 00` with `op = 01` (WIDEN) or `op = 10` (NARROW) (R36, D21). -/
  | fp32NotNarrow (cmd : Cmd)
  deriving DecidableEq, Repr

/-- `CMD[1:0]` (R34). -/
def cmdOp (cmd : Cmd) : BitVec 2 := cmd.extractLsb' 0 2

/-- `CMD[3:2]` (R34). -/
def cmdFmt (cmd : Cmd) : BitVec 2 := cmd.extractLsb' 2 2

/-- `CMD[4]` (R34). -/
def cmdOvf (cmd : Cmd) : Bool := cmd.getLsbD 4

/-- Why a command that is no row of R42 is reserved (R141, in its order). -/
def decodeError (cmd : Cmd) : DecodeError :=
  if cmdOp cmd = 3#2 then .reservedOp cmd
  else if cmdFmt cmd = 3#2 then .reservedFmt cmd
  else .fp32NotNarrow cmd

/-- `decode(CMD)` of R42, row by row. -/
def decode (cmd : Cmd) : Except DecodeError Instr :=
  if cmdOp cmd = 0b00#2 ∧ cmdFmt cmd = 0b00#2 then .ok (.fmaFp32 (cmdOvf cmd))
  else if cmdOp cmd = 0b00#2 ∧ cmdFmt cmd = 0b01#2 then .ok (.fmaFp16 (cmdOvf cmd))
  else if cmdOp cmd = 0b00#2 ∧ cmdFmt cmd = 0b10#2 then .ok (.fmaBf16 (cmdOvf cmd))
  else if cmdOp cmd = 0b01#2 ∧ cmdFmt cmd = 0b01#2 then .ok (.widenFp16 (cmdOvf cmd))
  else if cmdOp cmd = 0b01#2 ∧ cmdFmt cmd = 0b10#2 then .ok (.widenBf16 (cmdOvf cmd))
  else if cmdOp cmd = 0b10#2 ∧ cmdFmt cmd = 0b01#2 then .ok (.narrowFp16 (cmdOvf cmd))
  else if cmdOp cmd = 0b10#2 ∧ cmdFmt cmd = 0b10#2 then .ok (.narrowBf16 (cmdOvf cmd))
  else .error (decodeError cmd)

/-- The code of an operation (R35). -/
def opCode : Op → BitVec 2
  | .fma => 0b00#2
  | .widen => 0b01#2
  | .narrow => 0b10#2

/-- The code of a format (R36). -/
def fmtCode : Fmt → BitVec 2
  | .fp32 => 0b00#2
  | .fp16 => 0b01#2
  | .bf16 => 0b10#2

/-- The command word of its three fields (R34). -/
def packCmd (ovf : Bool) (fmt op : BitVec 2) : Cmd := BitVec.ofBool ovf ++ fmt ++ op

/-- The command word of an instruction (R34, R39). -/
def encode (i : Instr) : Cmd := packCmd i.bit4 (fmtCode i.fmt) (opCode i.op)

/-- The column `match` of `spec/opcode_table.json` (R39): the low four bits of the row's command, under
the mask `0x0F` that every row has. -/
def tableMatch : Instr → Nat
  | .fmaFp32 _ => 0x00
  | .fmaFp16 _ => 0x04
  | .fmaBf16 _ => 0x08
  | .widenFp16 _ => 0x05
  | .widenBf16 _ => 0x09
  | .narrowFp16 _ => 0x06
  | .narrowBf16 _ => 0x0A

/-- The nine forms of the spec's assembler (R41). `.OVF` is not a separate instruction: it sets
`CMD[4]` of the same operation. -/
inductive AsmForm where
  | fmaFp32
  | fmaFp16
  | fmaFp16Ovf
  | fmaBf16
  | fmaBf16Ovf
  | widenFp16
  | widenBf16
  | narrowFp16
  | narrowBf16
  deriving DecidableEq, Repr

/-- The instruction an assembler form stands for: `CMD[4] = 0` wherever the bit is ignored (R41). -/
def asmInstr : AsmForm → Instr
  | .fmaFp32 => .fmaFp32 false
  | .fmaFp16 => .fmaFp16 false
  | .fmaFp16Ovf => .fmaFp16 true
  | .fmaBf16 => .fmaBf16 false
  | .fmaBf16Ovf => .fmaBf16 true
  | .widenFp16 => .widenFp16 false
  | .widenBf16 => .widenBf16 false
  | .narrowFp16 => .narrowFp16 false
  | .narrowBf16 => .narrowBf16 false

/-- The text of an assembler form: the table's mnemonic, with `.OVF` where the form has it (R41). -/
def asmName (f : AsmForm) : String :=
  match f with
  | .fmaFp16Ovf => (asmInstr f).mnemonic ++ ".OVF"
  | .fmaBf16Ovf => (asmInstr f).mnemonic ++ ".OVF"
  | _ => (asmInstr f).mnemonic

/-- The instruction that a word of `spec/opcode_table.json` is read as. The table gives every row
eight bits, bit 0 first; the command port has five wires (R34), so a word with a bit above bit 4 is
no command and is refused (log entry 6). -/
def decodeTableWord (nbits w : Nat) : Option Instr :=
  if w % 2 ^ nbits < 32 then
    match decode (BitVec.ofNat 5 (w % 2 ^ nbits)) with
    | .ok i => some i
    | .error _ => none
  else none

end Sys2Proof
end

