-- ==== Sys2Proof/Config.lean ====
section
/-! DEFINITION. What the spec leaves open (R19, R106, R151, U2, U3, U4) as constants that no proof
can look into. Every claim that mentions one of them holds for each of its values. Log entries 3
and 4 name them. The latency `LAT` (R156) and the six tolerances of the comparison policies (R135)
are arguments of the functions that use them (`Machine.clockEdge`, `Machine.compareBits`), so they have
no constant here. -/

namespace Sys2Proof

/-- The open part of an FP32 NaN pattern (R106): its sign, and its mantissa less one. The mantissa
field is `payload + 1`, between 1 and `2^23 - 1`, so that the values of this type are exactly the
FP32 NaN patterns and the constraint of R106 (`bits[30:23] = 255`, `bits[22:0] != 0`) needs no
hypothesis. -/
structure NanChoice where
  sign    : Bool
  payload : Fin 8388607
  deriving DecidableEq, Repr, Inhabited

/-- The two parameters the model of the FP32 arithmetic takes as arguments (R17, R106, D14):
functions from the two operand patterns to the NaN that the multiply or the add returns. -/
structure NanParams where
  mul : Word32 → Word32 → NanChoice
  add : Word32 → Word32 → NanChoice
  deriving Inhabited

/-- `NAN32_MUL` of this instance of the block (R106): free, log entry 3. -/
opaque Config.nan32Mul : Word32 → Word32 → NanChoice

/-- `NAN32_ADD` of this instance of the block (R106): free, log entry 3. -/
opaque Config.nan32Add : Word32 → Word32 → NanChoice

/-- The NaN parameters of this instance of the block: functions, so that the same request always
gives the same response (R23, D25). -/
def Config.nan : NanParams := ⟨Config.nan32Mul, Config.nan32Add⟩

/-- What the `result` port shows where its value is unspecified (R142, R151, U2, U3): free, log
entry 4. The argument is the model's counter `State.ticks`. -/
opaque Config.freeResult : Nat → Word32

/-- What the `rsp_err` port shows while `rsp_valid = 0` and no reset was sampled (R33, U3): free,
log entry 4. The argument is the model's counter `State.ticks`. -/
opaque Config.freeErr : Nat → Bool

end Sys2Proof
end

