-- ==== Sys2Proof/Machine/State.lean ====
section
/-! DEFINITION. The state of the model. The block itself holds none (R10 to R16): what stands here
is the traffic on its ports (R31, R33) at transaction level (D1): what the host will do, the request
ports as last sampled, the responses accepted and not yet delivered, what the response ports show,
and two histories that no rule reads. All of it is plain data. -/

namespace Sys2Proof.Machine

/-- The request ports of R31 that carry a request: sampled together at acceptance (R32). -/
structure Request where
  ovfEn : Bool
  fmt   : BitVec 2
  op    : BitVec 2
  a     : Word32
  b     : Word32
  c     : Word32
  deriving DecidableEq, Repr

/-- The response to one request (R33, R142): a result with `rsp_err = 0`, or `rsp_err = 1` and no
result at all (U2). -/
inductive Response where
  /-- `rsp_err = 0` and this `result`. -/
  | ok (result : Word32)
  /-- `rsp_err = 1`: the request's command was reserved (R142). -/
  | illegalCommand
  deriving DecidableEq, Repr

/-- What the response ports show (R33, R151). -/
inductive RspPorts where
  /-- A reset was sampled: `rsp_valid = 0`, `rsp_err = 0`, `result` unspecified (R151). -/
  | afterReset
  /-- No response is delivered: `rsp_valid = 0`, the rest unspecified (R33, U3). -/
  | idle
  /-- A response is delivered: `rsp_valid = 1` (R33). -/
  | response (r : Response)
  deriving DecidableEq, Repr

/-- What happens next at the block's ports, in the order the host and the passing of time have it
(R6, D1; log entry 1). -/
inductive HostEvent where
  /-- The host presents a request, `req_valid = 1` and `rst = 0`: it is accepted (R32). -/
  | request (r : Request)
  /-- The oldest pending response reaches the response ports (R33, R25). -/
  | deliver
  /-- `rst = 1` is sampled (R150, R152). -/
  | reset
  deriving DecidableEq, Repr

/-- The state of the model. -/
structure State where
  /-- What happens next at the ports, the next event first (R6, R12: the host sequences requests). -/
  host      : List HostEvent
  /-- The request ports as sampled at the last acceptance (R31, R32). -/
  req       : Request
  /-- History: the requests accepted and not dropped by a reset, oldest first (R10; R152). -/
  accepted  : List Request
  /-- The responses of accepted requests that are not delivered yet, oldest first (R16, R25). -/
  pending   : List Response
  /-- History: the responses delivered, oldest first (R25, R157). -/
  delivered : List Response
  /-- What the response ports show (R33, R151). -/
  rsp       : RspPorts
  /-- The MODEL's own counter, no state of the block: it selects the free values that unspecified
  port values are read as (log entry 4). -/
  ticks     : Nat
  deriving DecidableEq, Repr

/-- The one synchronous fault of the block (R141). -/
inductive Fault where
  /-- IllegalCommand, code 1 (R141, R142): raised by `step` when an accepted request's `CMD` is
  reserved. SAFE: the model stops, as R142 and U1 ask, where the block answers `rsp_err = 1` and goes
  on; `Machine.proceed` is the run that goes on. -/
  | illegalCommand (cmd : Cmd)
  deriving DecidableEq, Repr

/-- Why the model has no meaning for an instruction. -/
inductive Refusal where
  /-- An instruction of the table without a meaning: raised by no arm of `exec` in this model. SAFE:
  nothing is claimed of such a step. -/
  | notModelled (mnemonic : String)
  deriving DecidableEq, Repr

/-- Right after reset (R18, R151, D24): nothing pending, nothing delivered, `rsp_valid = 0` and
`rsp_err = 0`. The request ports belong to the host and have no reset value: zeros stand there (log
entry 2). -/
def State.reset : State where
  host      := []
  req       := ⟨false, 0#2, 0#2, 0#32, 0#32, 0#32⟩
  accepted  := []
  pending   := []
  delivered := []
  rsp       := .afterReset
  ticks     := 0

end Sys2Proof.Machine
end

