-- ==== Sys2Proof/Machine/Operands.lean ====
section
/-! DEFINITION. The operand forms of R38 and the command word of a request (R34). No operand is
extended, scaled or shifted when it is taken from a port; a narrow operand is the port's low
sixteen bits (R21, R38). -/

namespace Sys2Proof.Machine

/-- `lowbits(port, 16)`: bits [31:16] of the port are ignored (R21, R38, U9). -/
def low16 (w : Word32) : Word16 := w.extractLsb' 0 16

/-- `zext_32` of a narrow result: `result[31:16]` is zero (R21, R33). -/
def zext32 (w : Word16) : Word32 := w.zeroExtend 32

/-- The command word on the ports `ovf_en`, `fmt`, `op` (R34). -/
def cmdOf (r : Request) : Cmd := packCmd r.ovfEn r.fmt r.op

/-- The same request with another command on its three command ports (R34). -/
def withCmd (r : Request) (cmd : Cmd) : Request :=
  { r with ovfEn := cmdOvf cmd, fmt := cmdFmt cmd, op := cmdOp cmd }

/-- Operands of form T: three FP32 patterns (R38). -/
def operandsT (r : Request) : Word32 × Word32 × Word32 := (r.a, r.b, r.c)

/-- Operands of form T16: three narrow patterns (R38). -/
def operandsT16 (r : Request) : Word16 × Word16 × Word16 := (low16 r.a, low16 r.b, low16 r.c)

/-- The operand of form U16: one narrow pattern; `a[31:16]`, `b`, `c` are ignored (R38). -/
def operandU16 (r : Request) : Word16 := low16 r.a

/-- The operand of form U32: one FP32 pattern; `b`, `c` are ignored (R38). -/
def operandU32 (r : Request) : Word32 := r.a

end Sys2Proof.Machine
end

