-- ==== Sys2Proof/Machine/Ops.lean ====
section
/-! DEFINITION. The named operations on the state: sampling a request, answering it, delivering the
oldest response, reset, and the one fault. There is no register file and no memory to operate on
(R11, R20), so there is no memory form to keep either. -/

namespace Sys2Proof.Machine

/-- The next event is taken from the ports: it is gone from the list, and unless the event itself
drives the response ports they show no response (R33). -/
def takeEvent (s : State) (rest : List HostEvent) : State :=
  { s with host := rest, rsp := .idle, ticks := s.ticks + 1 }

/-- Acceptance: all request ports are sampled together (R31, R32). -/
def sampleRequest (s : State) (r : Request) (rest : List HostEvent) : State :=
  { takeEvent s rest with req := r }

/-- A response is formed for the request on the ports and takes its turn behind the pending ones
(R25, R33). -/
def enqueue (s : State) (rsp : Response) : State :=
  { s with accepted := s.accepted ++ [s.req], pending := s.pending ++ [rsp] }

/-- `result <- v` (R9, R33): the response to this request has `rsp_err = 0` and this result. -/
def respond (s : State) (v : Word32) : State := enqueue s (.ok v)

/-- TAKING THE FAULT: `raise IllegalCommand(CMD)` (R142, R145). The response to this request has
`rsp_err = 1` and no result; no other state changes, nothing is saved and there is no handler. There
is no return from it (R146): the next request is simply sampled. -/
def takeIllegalCommand (s : State) : State := enqueue s .illegalCommand

/-- The oldest pending response is delivered (R25, R33); with none pending nothing is. -/
def deliverOldest (s : State) : State :=
  match s.pending with
  | [] => s
  | r :: rest => { s with pending := rest, delivered := s.delivered ++ [r], rsp := .response r }

/-- `rst = 1` is sampled (R150 to R152): every request accepted and not answered is dropped, no
response is ever delivered for it, and the response ports are those of R151. -/
def resetBlock (s : State) : State :=
  { s with accepted := s.accepted.take s.delivered.length, pending := [], rsp := .afterReset }

end Sys2Proof.Machine
end

