-- ==== Sys2Proof/Machine/Widen.lean ====
section
/-! DEFINITION. `fp_format_converter`, narrow to FP32 (R60 to R68): exact. -/

namespace Sys2Proof.Machine

/-- The loop of the subnormal arm (R60, R63): shift the mantissa left, one off the local exponent
counter each time, until its leading 1 stands at bit `M`. The first argument bounds the number of
turns; `M` of them suffice (R63, R68). -/
def normalizeSub (M : Nat) : Nat → Nat → Int → Nat × Int
  | 0, m, k => (m, k)
  | turns + 1, m, k => if m.testBit M then (m, k) else normalizeSub M turns (m <<< 1) (k - 1)

/-- `widen_F(x)` of R60, arm by arm; the counter starts at `1 - bias` (R63). -/
def widenGeneric (F : FormatDesc) (x : Word16) : Word32 :=
  let s := signOf F x.toNat
  let e := expOf F x.toNat
  let m := manOf F x.toNat
  if e = 0 ∧ m = 0 then BitVec.ofNat 32 (pack fp32 s 0 0)
  else if e = 0 then
    let mk := normalizeSub F.M F.M m (1 - F.bias)
    BitVec.ofNat 32 (pack fp32 s (mk.2 + 127).toNat (lowbits mk.1 F.M <<< (23 - F.M)))
  else if e = emax F ∧ m = 0 then BitVec.ofNat 32 (pack fp32 s 255 0)
  else if e = emax F then BitVec.ofNat 32 (pack fp32 s 255 (m <<< (23 - F.M)))
  else BitVec.ofNat 32 (pack fp32 s ((e : Int) - F.bias + 127).toNat (m <<< (23 - F.M)))

/-- `widen_FP16` (R61). -/
def widenFp16 (x : Word16) : Word32 := widenGeneric fp16 x

/-- `widen_BF16` (R62): `x << 16` for every class, the subnormal one too (R64, conflict C2). -/
def widenBf16 (x : Word16) : Word32 := x ++ 0#16

/-- `widen_F` for a narrow format (R61, R62). -/
def widen : NarrowFmt → Word16 → Word32
  | .fp16, x => widenFp16 x
  | .bf16, x => widenBf16 x

end Sys2Proof.Machine
end

