-- ==== Sys2Proof/Machine/Convert.lean ====
section
/-! DEFINITION. The four conversions as operations of the block (R61, R62, R88, R89). `CMD[4]` and
the ports `b`, `c` are ignored in all four (R37, R38). -/

namespace Sys2Proof.Machine

/-- The result of WIDEN.FP16 (R61). -/
def widenFp16Result (r : Request) : Word32 := widenFp16 (operandU16 r)

/-- The result of WIDEN.BF16 (R62). -/
def widenBf16Result (r : Request) : Word32 := widenBf16 (operandU16 r)

/-- The result of NARROW.FP16 (R88): `result[31:16]` is zero. -/
def narrowFp16Result (r : Request) : Word32 := zext32 (narrowFp16 (operandU32 r))

/-- The result of NARROW.BF16 (R89): `result[31:16]` is zero. -/
def narrowBf16Result (r : Request) : Word32 := zext32 (narrowBf16 (operandU32 r))

/-- WIDEN.FP16 (R61). -/
def execWidenFp16 (_v : Bool) (s : State) : Host.Outcome State Fault Refusal :=
  .next (respond s (widenFp16Result s.req))

/-- WIDEN.BF16 (R62). -/
def execWidenBf16 (_v : Bool) (s : State) : Host.Outcome State Fault Refusal :=
  .next (respond s (widenBf16Result s.req))

/-- NARROW.FP16 (R88). -/
def execNarrowFp16 (_v : Bool) (s : State) : Host.Outcome State Fault Refusal :=
  .next (respond s (narrowFp16Result s.req))

/-- NARROW.BF16 (R89). -/
def execNarrowBf16 (_v : Bool) (s : State) : Host.Outcome State Fault Refusal :=
  .next (respond s (narrowBf16Result s.req))

end Sys2Proof.Machine
end

