-- ==== Sys2Proof/Machine/Arith.lean ====
section
/-! DEFINITION. The FP32 arithmetic of the multiply-add (R101 to R106): IEEE 754 binary32
multiplication and addition, two separate operations, each rounded to nearest even, with gradual
underflow and no flag. Every exact value is a natural number over a power of two (R9: the finite
values, their sums and products are dyadic rationals), so the exact real `r` of R102 is given as
`n / 2^d`. -/

namespace Sys2Proof.Machine

/-- `RNE_int(n / 2^sh)` for a shift of either sign: a left shift is exact, a right shift rounds
(R9, R75). -/
def rneScale (n : Nat) (sh : Int) : Nat :=
  if 0 ≤ sh then rneShift n sh.toNat else n <<< (-sh).toNat

/-- `round(s, r)` of R102 for a format, with `r = n / 2^d`: the pattern of sign `s` nearest to `r`,
ties to even, overflow to infinity, gradual underflow. R102 writes it for FP32, where
`1 - bias = -126`, `bias - 1 = 126` and `EMAX << M = 0x7F800000`. -/
def roundTo (F : FormatDesc) (s : Bool) (n d : Nat) : Nat :=
  if n = 0 then pack F s 0 0
  else
    let q : Int := max ((Nat.log2 n : Int) - d) (1 - F.bias)
    let k := rneScale n (q - F.M + d)
    let bits := ((q + F.bias - 1).toNat <<< F.M) + k
    pack F s 0 (if bits ≥ emax F <<< F.M then emax F <<< F.M else bits)

/-- `round32(s, n / 2^d)` (R102). -/
def round32 (s : Bool) (n d : Nat) : Word32 := BitVec.ofNat 32 (roundTo fp32 s n d)

/-- The NaN pattern of a choice of sign and payload (R106): exponent 255, mantissa not zero. -/
def nanPattern (c : NanChoice) : Word32 :=
  BitVec.ofNat 32 (pack fp32 c.sign 255 (c.payload.val + 1))

/-- `REF_NAN` (R106): both functions return `0x7FC00000`. It is for running the spec's vectors only;
nothing of the machine uses it. -/
def refNan : NanParams := ⟨fun _ _ => ⟨false, 4194303⟩, fun _ _ => ⟨false, 4194303⟩⟩

/-- The sign of an FP32 pattern, `x[31]` (R51). -/
def sign32 (x : Word32) : Bool := signOf fp32 x.toNat

/-- `s << 31 | 0x7F800000` (R103). -/
def inf32 (s : Bool) : Word32 := BitVec.ofNat 32 (pack fp32 s 255 0)

/-- `mul32(x, y)` (R103). -/
def mul32 (N : NanParams) (x y : Word32) : Word32 :=
  if isNan fp32 x.toNat ∨ isNan fp32 y.toNat then nanPattern (N.mul x y)
  else
    let s := sign32 x ^^ sign32 y
    if isInf fp32 x.toNat ∨ isInf fp32 y.toNat then
      if isZero fp32 x.toNat ∨ isZero fp32 y.toNat then nanPattern (N.mul x y) else inf32 s
    else round32 s (unitsOf fp32 x.toNat * unitsOf fp32 y.toNat) (2 * unitScale fp32)

/-- The signed value of a finite FP32 pattern in units of `2^-149` (R53). -/
def signedUnits (x : Word32) : Int :=
  if sign32 x then -(unitsOf fp32 x.toNat : Int) else unitsOf fp32 x.toNat

/-- `add32(x, y)` (R104). -/
def add32 (N : NanParams) (x y : Word32) : Word32 :=
  if isNan fp32 x.toNat ∨ isNan fp32 y.toNat then nanPattern (N.add x y)
  else if isInf fp32 x.toNat ∧ isInf fp32 y.toNat then
    if sign32 x ≠ sign32 y then nanPattern (N.add x y) else x
  else if isInf fp32 x.toNat then x
  else if isInf fp32 y.toNat then y
  else
    let r := signedUnits x + signedUnits y
    if r = 0 then
      if isZero fp32 x.toNat ∧ isZero fp32 y.toNat ∧ sign32 x = sign32 y then x else 0#32
    else round32 (decide (r < 0)) r.natAbs (unitScale fp32)

end Sys2Proof.Machine
end

