-- ==== Sys2Proof/Machine/Fma.lean ====
section
/-! DEFINITION. `fp_fma_engine`: the multiply-add in the three formats (R100, R107 to R117). It is not
fused: the product is rounded to FP32, the sum is rounded to FP32, and a narrow result is rounded
again (R100, conflict C1). -/

namespace Sys2Proof.Machine

/-- The overflow policy (R108): the product's narrow encoding is tested first, then that of `c`;
`none` where neither is an infinity. -/
def overflowPolicy (f : NarrowFmt) (p C : Word32) : Option Word16 :=
  let np := narrow f p
  let nc := narrow f C
  if isInf (narrowDesc f) np.toNat then some np
  else if isInf (narrowDesc f) nc.toNat then some nc
  else none

/-- `fma_F(a, b, c, ovf_en)` (R107). -/
def fmaNarrow (N : NanParams) (f : NarrowFmt) (ovfEn : Bool) (a b c : Word16) : Word16 :=
  let C := widen f c
  let p := mul32 N (widen f a) (widen f b)
  match (if ovfEn then overflowPolicy f p C else none) with
  | some infinity => infinity
  | none => narrow f (add32 N p C)

/-- The result of FMA.FP32 (R110): `add32(mul32(a, b), c)`. -/
def fmaFp32Result (N : NanParams) (r : Request) : Word32 :=
  let abc := operandsT r
  add32 N (mul32 N abc.1 abc.2.1) abc.2.2

/-- The result of FMA.FP16 (R111). -/
def fmaFp16Result (N : NanParams) (ovfEn : Bool) (r : Request) : Word32 :=
  let abc := operandsT16 r
  zext32 (fmaNarrow N .fp16 ovfEn abc.1 abc.2.1 abc.2.2)

/-- The result of FMA.BF16 (R112). -/
def fmaBf16Result (N : NanParams) (ovfEn : Bool) (r : Request) : Word32 :=
  let abc := operandsT16 r
  zext32 (fmaNarrow N .bf16 ovfEn abc.1 abc.2.1 abc.2.2)

/-- FMA.FP32 (R110). `CMD[4]` is ignored (R37). -/
def execFmaFp32 (_v : Bool) (s : State) : Host.Outcome State Fault Refusal :=
  .next (respond s (fmaFp32Result Config.nan s.req))

/-- FMA.FP16 (R111); `CMD[4]` runs the overflow policy (R37, R108). -/
def execFmaFp16 (ovfEn : Bool) (s : State) : Host.Outcome State Fault Refusal :=
  .next (respond s (fmaFp16Result Config.nan ovfEn s.req))

/-- FMA.BF16 (R112); `CMD[4]` runs the overflow policy (R37, R108). -/
def execFmaBf16 (ovfEn : Bool) (s : State) : Host.Outcome State Fault Refusal :=
  .next (respond s (fmaBf16Result Config.nan ovfEn s.req))

end Sys2Proof.Machine
end

