-- ==== Sys2Proof/Machine/Dispatch.lean ====
section
/-! DEFINITION. One arm per constructor of `Instr` (R39): the meaning of each operation. -/

namespace Sys2Proof.Machine

def exec (i : Instr) (s : State) : Host.Outcome State Fault Refusal :=
  match i with
  | .fmaFp32 v => Sys2Proof.Machine.execFmaFp32 v s
  | .fmaFp16 ovfEn => Sys2Proof.Machine.execFmaFp16 ovfEn s
  | .fmaBf16 ovfEn => Sys2Proof.Machine.execFmaBf16 ovfEn s
  | .widenFp16 v => Sys2Proof.Machine.execWidenFp16 v s
  | .widenBf16 v => Sys2Proof.Machine.execWidenBf16 v s
  | .narrowFp16 v => Sys2Proof.Machine.execNarrowFp16 v s
  | .narrowBf16 v => Sys2Proof.Machine.execNarrowBf16 v s

end Sys2Proof.Machine
end

