-- ==== Sys2Proof/Machine/Step.lean ====
section
/-! DEFINITION. One step of the model: the next event at the ports (R6, R32, D1). An accepted request
is decoded and run in the same step ("accept a request" is the one step of the block agent, R32); a
reserved command faults, whatever its operands (R42, R142, R144). -/

namespace Sys2Proof.Machine

/-- One step. With no event left nothing is presented and nothing is delivered: the block never
halts (R157). -/
def step (s : State) : Host.Outcome State Fault Refusal :=
  match s.host with
  | [] => .next (takeEvent s [])
  | .deliver :: rest => .next (deliverOldest (takeEvent s rest))
  | .reset :: rest => .next (resetBlock (takeEvent s rest))
  | .request r :: rest =>
    match decode (cmdOf r) with
    | .ok i => exec i (sampleRequest s r rest)
    | .error _ => .fault (.illegalCommand (cmdOf r))

/-- The host presents the command of the table word `w` next, with the operands that stand on the
ports (R12: no program is stored; log entry 5). -/
def State.withFetchWord (s : State) (nbits w : Nat) : State :=
  { s with host := .request (withCmd s.req (BitVec.ofNat 5 (w % 2 ^ nbits))) :: s.host }

end Sys2Proof.Machine
end

