-- ==== Sys2Proof/Machine/Answer.lean ====
section
/-! DEFINITION. The block as the pure function it is (R10): the response to a request, from the
request's own fields and the NaN parameters alone. -/

namespace Sys2Proof.Machine

/-- The result of a legal command for the operands on the request's ports (R23, R39). -/
def resultOf (N : NanParams) (i : Instr) (r : Request) : Word32 :=
  match i with
  | .fmaFp32 _ => fmaFp32Result N r
  | .fmaFp16 ovfEn => fmaFp16Result N ovfEn r
  | .fmaBf16 ovfEn => fmaBf16Result N ovfEn r
  | .widenFp16 _ => widenFp16Result r
  | .widenBf16 _ => widenBf16Result r
  | .narrowFp16 _ => narrowFp16Result r
  | .narrowBf16 _ => narrowBf16Result r

/-- The response to a request (R10, R33, R142). -/
def answer (N : NanParams) (r : Request) : Response :=
  match decode (cmdOf r) with
  | .ok i => .ok (resultOf N i r)
  | .error _ => .illegalCommand

/-- A request whose command is legal (R39, R40): no operand value matters (R144). -/
def legalRequest (r : Request) : Bool := cmdWellFormed (cmdOf r)

end Sys2Proof.Machine
end

