-- ==== Sys2Proof/Machine/Clocked.lean ====
section
/-! DEFINITION. The ports clock edge by clock edge (R31 to R33, R150 to R152, R156), for a latency
`LAT` the functions take as an argument. The machine of `Machine/Step.lean` has no time (R156, D18);
this is the cycle shape that R156 fixes around the same `answer`. -/

namespace Sys2Proof.Machine

/-- The request side of the ports at one rising edge of `clk` (R31). -/
structure Edge where
  rst      : Bool
  reqValid : Bool
  req      : Request
  deriving DecidableEq, Repr

/-- Acceptance: `req_valid = 1` and `rst = 0`; the block is always ready (R32). -/
def accepts (e : Edge) : Bool := e.reqValid && !e.rst

/-- A request in flight (R16): its response, and in how many edges it is due. -/
structure InFlight where
  due : Nat
  rsp : Response
  deriving DecidableEq, Repr

/-- The requests in flight, oldest first, and what the response ports show. -/
structure Clocked where
  flight : List InFlight
  out    : RspPorts
  deriving DecidableEq, Repr

/-- Right after reset (R151). -/
def clockedReset : Clocked := ⟨[], .afterReset⟩

/-- One edge passes for the requests still in flight. -/
def age (l : List InFlight) : List InFlight := l.map fun f => ⟨f.due - 1, f.rsp⟩

/-- The response that is due now reaches the ports (R33, R156). -/
def emit : List InFlight → Clocked
  | [] => ⟨[], .idle⟩
  | f :: rest => if f.due = 0 then ⟨age rest, .response f.rsp⟩ else ⟨age (f :: rest), .idle⟩

/-- One rising edge: reset drops what is in flight (R150 to R152); an accepted request is due `LAT`
edges later, in the same cycle for `LAT = 0` (R156). -/
def clockEdge (N : NanParams) (lat : Nat) (c : Clocked) (e : Edge) : Clocked :=
  if e.rst then clockedReset
  else emit (if accepts e then c.flight ++ [⟨lat, answer N e.req⟩] else c.flight)

/-- What the response ports show after each edge. -/
def clockRun (N : NanParams) (lat : Nat) : Clocked → List Edge → List RspPorts
  | _, [] => []
  | c, e :: rest => (clockEdge N lat c e).out :: clockRun N lat (clockEdge N lat c e) rest

end Sys2Proof.Machine
end

