-- ==== Sys2Proof/Machine/Compare.lean ====
section
/-! DEFINITION. The three comparison policies (R130 to R135): checker functions beside the block, no
operation of it (R4). They are pure; the six tolerances are arguments (R135, U7). -/

namespace Sys2Proof.Machine

/-- The policies, selected per test vector (R130). -/
inductive Policy where
  | precise
  | ulp
  | relativeError
  deriving DecidableEq, Repr

/-- The parameters of R135, all six. -/
structure Tolerances where
  ulpTolFp32       : Nat
  ulpTol16         : Nat
  relThreshFp32    : ℚ
  relThreshRelaxed : ℚ
  relFloor         : ℚ
  relThresh16      : ℚ

/-- The four defaults of R135 with the two open parameters given (`REL_FLOOR`, `REL_THRESH_16`). -/
def defaultTolerances (relFloor relThresh16 : ℚ) : Tolerances :=
  ⟨8, 2, 1 / 100000, 1 / 1000, relFloor, relThresh16⟩

/-- The diagnostic fields (R130): an ULP distance or a relative error; none for Precise (R131), for an
exact match, and where the ratio is no real (R134). -/
inductive Diagnostic where
  | absent
  | ulpDistance (d : Nat)
  | relError (ratio : ℚ)
  deriving DecidableEq

/-- The outcome of a comparison (R130): a `false` is data, no error. -/
structure Verdict where
  pass : Bool
  diag : Diagnostic
  deriving DecidableEq

/-- A pattern of the format's width on a 32-bit carrier (R21, R130). -/
def patternOf (F : FormatDesc) (w : Word32) : Nat := lowbits w.toNat F.W

/-- Precise (R131): the patterns are identical. -/
def comparePrecise (F : FormatDesc) (candidate reference : Word32) : Verdict :=
  ⟨patternOf F candidate == patternOf F reference, .absent⟩

/-- `ULP_TOL_FP32` for FP32, `ULP_TOL_16` for the 16-bit formats (R132). -/
def ulpTol (T : Tolerances) : Fmt → Nat
  | .fp32 => T.ulpTolFp32
  | .fp16 => T.ulpTol16
  | .bf16 => T.ulpTol16

/-- ULP (R132): the distance of the two's-complement readings, without wrap-around. -/
def compareUlp (T : Tolerances) (f : Fmt) (candidate reference : Word32) : Verdict :=
  let F := descOf f
  let d := (sint F.W (patternOf F candidate) - sint F.W (patternOf F reference)).natAbs
  ⟨decide (d ≤ ulpTol T f), .ulpDistance d⟩

/-- `REL_THRESH(F)` (R133). -/
def relThresh (T : Tolerances) : Fmt → ℚ
  | .fp32 => T.relThreshFp32
  | .fp16 => T.relThresh16
  | .bf16 => T.relThresh16

/-- The threshold for a denominator: relaxed below the floor (R133). -/
def relThreshAt (T : Tolerances) (f : Fmt) (den : ℚ) : ℚ :=
  if den < T.relFloor then T.relThreshRelaxed else relThresh T f

/-- RelativeError (R133, R134), with the operand triple `a`, `b`, `c` of the vector: an exact match
passes; otherwise the ratio to `max(|a*b|, |c|)` is strictly below the threshold, and a NaN, an
infinity or a zero denominator fails. -/
def compareRel (T : Tolerances) (f : Fmt) (a b c candidate reference : Word32) : Verdict :=
  let F := descOf f
  if patternOf F candidate = patternOf F reference then ⟨true, .absent⟩
  else
    match realOf F (patternOf F candidate), realOf F (patternOf F reference), realOf F (patternOf F a),
        realOf F (patternOf F b), realOf F (patternOf F c) with
    | some cf, some rf, some va, some vb, some vc =>
      let den := max |va * vb| |vc|
      if den = 0 then ⟨false, .absent⟩
      else
        let ratio := |cf - rf| / den
        ⟨decide (ratio < relThreshAt T f den), .relError ratio⟩
    | _, _, _, _, _ => ⟨false, .absent⟩

/-- `compare` (R130). -/
def compareBits (T : Tolerances) (f : Fmt) (p : Policy) (a b c candidate reference : Word32) : Verdict :=
  match p with
  | .precise => comparePrecise (descOf f) candidate reference
  | .ulp => compareUlp T f candidate reference
  | .relativeError => compareRel T f a b c candidate reference

end Sys2Proof.Machine
end

