-- ==== Sys2Proof/Machine/Flags.lean ====
section
/-! DEFINITION. The status outputs. There are no status flags: no operation sets, clears or reads
one (R13). The one status output is `rsp_err`, which is a function of the same request; it stands on
the response ports with `rsp_valid` and `result` (R33). -/

namespace Sys2Proof.Machine

/-- The port `rsp_valid` (R33, R151). -/
def rspValid (s : State) : Bool :=
  match s.rsp with
  | .afterReset => false
  | .idle => false
  | .response _ => true

/-- `rsp_err` of a response (R33, R142). -/
def errBit : Response → Bool
  | .ok _ => false
  | .illegalCommand => true

/-- The port `rsp_err`: 0 after reset (R151), the response's bit under `rsp_valid` (R33), a free
value otherwise (U3; log entry 4). -/
def rspErr (s : State) : Bool :=
  match s.rsp with
  | .afterReset => false
  | .idle => Config.freeErr s.ticks
  | .response r => errBit r

/-- The port `result`: the pattern under `rsp_valid = 1` and `rsp_err = 0` (R33), a free value
otherwise (R142, R151, U2, U3; log entry 4). -/
def resultPort (s : State) : Word32 :=
  match s.rsp with
  | .response (.ok w) => w
  | .response .illegalCommand => Config.freeResult s.ticks
  | .afterReset => Config.freeResult s.ticks
  | .idle => Config.freeResult s.ticks

end Sys2Proof.Machine
end

