-- ==== Sys2Proof/Machine/RealRound.lean ====
section
/-! DEFINITION. `round32` of R102 over exact reals, letter for letter: the clear form, against which
the dyadic `round32` that the machine runs is stated to be equal. -/

namespace Sys2Proof.Machine

/-- `q` of R102: the exponent of the binade `r` lies in, clamped at the subnormal binade. -/
def binadeOf (r : ℚ) : Int := max (Int.log 2 r) (-126)

/-- `bits` of R102 before the overflow test. -/
def realBits (r : ℚ) : Int :=
  (binadeOf r + 126) * 2 ^ 23 + rneInt (r / 2 ^ (binadeOf r - 23))

/-- `round32(s, r)` (R102). -/
def realRound32 (s : Bool) (r : ℚ) : Word32 :=
  if r = 0 then BitVec.ofInt 32 (s.toNat * 2 ^ 31)
  else BitVec.ofInt 32 (s.toNat * 2 ^ 31 + min (realBits r) 0x7F800000)

end Sys2Proof.Machine
end

