-- ==== Sys2Proof/Machine/Session.lean ====
section
/-! DEFINITION. The run that goes on past a reserved command. R142 has a model treat IllegalCommand as
a fault outcome of the step, and `step` does; the block itself answers the request in its turn with
`rsp_err = 1` and serves the next one (R142, R144, R146). -/

namespace Sys2Proof.Machine

/-- The state after the next event, a fault taken (R142, R145): where `step` answers a next state it
is that state. -/
def proceed (s : State) : State :=
  match step s with
  | .next t => t
  | .fault (.illegalCommand _) =>
    match s.host with
    | .request r :: rest => takeIllegalCommand (sampleRequest s r rest)
    | _ => s
  | .refused _ => s

/-- `n` events in order (R157: a run is a finite list of requests chosen by the host). -/
def proceedN : Nat → State → State
  | 0, s => s
  | n + 1, s => proceedN n (proceed s)

/-- Every event the host has in store. -/
def serveAll (s : State) : State := proceedN s.host.length s

/-- The requests among the host's events, in order. -/
def requestsOf : List HostEvent → List Request
  | [] => []
  | .request r :: rest => r :: requestsOf rest
  | .deliver :: rest => requestsOf rest
  | .reset :: rest => requestsOf rest

/-- How many responses the host's events let through. -/
def deliveriesOf : List HostEvent → Nat
  | [] => 0
  | .request _ :: rest => deliveriesOf rest
  | .deliver :: rest => deliveriesOf rest + 1
  | .reset :: rest => deliveriesOf rest

end Sys2Proof.Machine
end

