-- ==== Sys2Proof/Safety.lean ====
section
/-! DEFINITION. What claims count as a safe run. -/

namespace Sys2Proof.Safety

open Sys2Proof.Machine

/-- Every request the host will present has a legal command (R39): the runs without a fault. -/
def LegalHost (s : State) : Prop := ∀ r ∈ requestsOf s.host, legalRequest r = true

/-- One response per accepted request, in the order of acceptance, each the function of its own
request (R10, R25): the responses delivered and pending, in order, are the answers to the requests
accepted. -/
def AnswersInOrder (s : State) : Prop :=
  s.delivered ++ s.pending = s.accepted.map (answer Config.nan)

end Sys2Proof.Safety
end

