-- ==== Sys2Proof/Certificates/Slice0/Obligations.lean ====
section
/-! DEFINITION. The statements for the provers, each formalising rules of the spec. Where one gives the
whole next state, two of its fields are the model's own bookkeeping and no rule of the spec: the history
`accepted` (log entry 8) and the counter `ticks` (log entry 4). The statements say what becomes of them
because a frame says what becomes of everything. A statement that mentions `Config.nan`, or an arbitrary
`N : NanParams`, holds for every choice of the open NaN patterns (R106, log entry 3). -/

open Sys2Proof Sys2Proof.Machine Sys2Proof.Safety

/-! ### Encoding and decode -/

/-- R39, R42: decoding the encoding of an instruction gives it back, `CMD[4]` included, and a command
that decodes is the encoding of what it decodes to. -/
def Obligations.DecodeAndEncodeAgree : Prop :=
  (∀ i : Instr, i.wellFormed = true ∧ decode (encode i) = .ok i) ∧
  (∀ (cmd : Cmd) (i : Instr), decode cmd = .ok i → encode i = cmd)

/-- R39, R141: the reserved commands are exactly those with `op = 11`, with `fmt = 11`, or with
`fmt = 00` and `op = 01` or `10`. -/
def Obligations.ReservedCommandsExactly : Prop :=
  ∀ cmd : Cmd, (¬ ∃ i, decode cmd = .ok i) ↔
    (cmdOp cmd = 3#2 ∨ cmdFmt cmd = 3#2 ∨ (cmdFmt cmd = 0#2 ∧ (cmdOp cmd = 1#2 ∨ cmdOp cmd = 2#2)))

/-- R39: command words written out from the table, bit by bit, decode to their operations; the words
of the opcode table too (eight bits a word: log entry 6). R41: the command words of the nine assembler
forms, `CMD[4]` 1 in the two `.OVF` forms only. -/
def Obligations.TableWordsDecode : Prop :=
  decode 0b00000#5 = .ok (.fmaFp32 false) ∧ decode 0b10000#5 = .ok (.fmaFp32 true) ∧
  decode 0b00100#5 = .ok (.fmaFp16 false) ∧ decode 0b10100#5 = .ok (.fmaFp16 true) ∧
  decode 0b01000#5 = .ok (.fmaBf16 false) ∧ decode 0b11000#5 = .ok (.fmaBf16 true) ∧
  decode 0b00101#5 = .ok (.widenFp16 false) ∧ decode 0b10101#5 = .ok (.widenFp16 true) ∧
  decode 0b01001#5 = .ok (.widenBf16 false) ∧ decode 0b11001#5 = .ok (.widenBf16 true) ∧
  decode 0b00110#5 = .ok (.narrowFp16 false) ∧ decode 0b10110#5 = .ok (.narrowFp16 true) ∧
  decode 0b01010#5 = .ok (.narrowBf16 false) ∧ decode 0b11010#5 = .ok (.narrowBf16 true) ∧
  decodeTableWord 8 0x00 = some (.fmaFp32 false) ∧ decodeTableWord 8 0x04 = some (.fmaFp16 false) ∧
  decodeTableWord 8 0x08 = some (.fmaBf16 false) ∧ decodeTableWord 8 0x05 = some (.widenFp16 false) ∧
  decodeTableWord 8 0x09 = some (.widenBf16 false) ∧ decodeTableWord 8 0x06 = some (.narrowFp16 false) ∧
  decodeTableWord 8 0x0A = some (.narrowBf16 false) ∧
  encode (asmInstr .fmaFp32) = 0x00#5 ∧ encode (asmInstr .fmaFp16) = 0x04#5 ∧
  encode (asmInstr .fmaFp16Ovf) = 0x14#5 ∧ encode (asmInstr .fmaBf16) = 0x08#5 ∧
  encode (asmInstr .fmaBf16Ovf) = 0x18#5 ∧ encode (asmInstr .widenFp16) = 0x05#5 ∧
  encode (asmInstr .widenBf16) = 0x09#5 ∧ encode (asmInstr .narrowFp16) = 0x06#5 ∧
  encode (asmInstr .narrowBf16) = 0x0A#5

/-! ### The machine: step, faults, order, reset -/

/-- R32: an accepted request is sampled, decoded and run in one step. -/
def Obligations.StepRunsTheDecodedRequest : Prop :=
  ∀ (s : State) (r : Request) (rest : List HostEvent) (i : Instr),
    s.host = .request r :: rest → decode (cmdOf r) = .ok i →
    step s = exec i { s with host := rest, req := r, rsp := .idle, ticks := s.ticks + 1 }

/-- Log entry 5: a word of the opcode table placed by `withFetchWord` is what the next step runs, on
the operands that stand on the ports. -/
def Obligations.FetchWordIsRunNext : Prop :=
  ∀ (s : State) (nbits w : Nat) (i : Instr), decodeTableWord nbits w = some i →
    ∃ r : Request, r.a = s.req.a ∧ r.b = s.req.b ∧ r.c = s.req.c ∧ decode (cmdOf r) = .ok i ∧
      step (s.withFetchWord nbits w) = exec i { s with req := r, rsp := .idle, ticks := s.ticks + 1 }

/-- R142, R144: a reserved command faults whatever its operands are; past the fault, the block has an
answer `rsp_err = 1` in the request's turn, and nothing else of the state is disturbed. -/
def Obligations.ReservedCommandFaultsInItsTurn : Prop :=
  ∀ (s : State) (r : Request) (rest : List HostEvent),
    s.host = .request r :: rest →
    (r.op = 3#2 ∨ r.fmt = 3#2 ∨ (r.fmt = 0#2 ∧ (r.op = 1#2 ∨ r.op = 2#2))) →
    step s = .fault (.illegalCommand (cmdOf r)) ∧
    proceed s = { s with
      host := rest, req := r, rsp := .idle, ticks := s.ticks + 1,
      accepted := s.accepted ++ [r], pending := s.pending ++ [.illegalCommand] }

/-- R33, R142: when its turn comes, the answer to a reserved command is delivered with
`rsp_valid = 1` and `rsp_err = 1`, and a result with `rsp_valid = 1`, `rsp_err = 0` and its pattern on
the port; the oldest pending response goes first and the others stay. The delivery as an event and the
history `delivered` are the model's (log entries 1, 8). -/
def Obligations.OldestResponseIsDelivered : Prop :=
  ∀ (s : State) (q : Response) (later : List Response) (rest : List HostEvent),
    s.host = .deliver :: rest → s.pending = q :: later →
    ∃ t, step s = .next t ∧
      t = { s with host := rest, pending := later, delivered := s.delivered ++ [q],
                   rsp := .response q, ticks := s.ticks + 1 } ∧
      rspValid t = true ∧
      (q = .illegalCommand → rspErr t = true) ∧
      (∀ w, q = .ok w → rspErr t = false ∧ resultPort t = w)

/-- R117, R140, R144: the only way a step does not answer a next state is a reserved command; no
operand value, no other event and no refusal stops the machine. -/
def Obligations.OnlyReservedCommandsStop : Prop :=
  (∀ (i : Instr) (s : State), ∃ t, exec i s = .next t) ∧
  (∀ s : State, (¬ ∃ t, step s = .next t) ↔
    ∃ r rest, s.host = .request r :: rest ∧ legalRequest r = false) ∧
  (∀ (s : State) (why : Refusal), step s ≠ .refused why)

/-- R40: a host that presents legal commands only never sees a fault, and stays such a host. -/
def Obligations.LegalHostNeverFaults : Prop :=
  ∀ s : State, LegalHost s → ∃ t, step s = .next t ∧ LegalHost t

/-- R10, R24: what an operation answers depends on its own request only: in two states that share
nothing but the request ports the same response is formed, and nothing but the list of pending
responses and the history of requests changes. -/
def Obligations.ResponseIsAFunctionOfItsRequest : Prop :=
  ∀ (i : Instr) (s t : State), s.req = t.req →
    ∃ w, exec i s = .next { s with accepted := s.accepted ++ [s.req], pending := s.pending ++ [.ok w] } ∧
      exec i t = .next { t with accepted := t.accepted ++ [s.req], pending := t.pending ++ [.ok w] }

/-- R21, R37, R38: the ports an operation ignores do not matter: `ovf_en` for FMA.FP32, WIDEN and
NARROW; bits [31:16] of narrow operands; `b` and `c` for WIDEN and NARROW. -/
def Obligations.IgnoredPortsDoNotMatter : Prop :=
  ∀ (N : NanParams) (r q : Request), r.op = q.op → r.fmt = q.fmt →
    (r.op = 0#2 → r.fmt = 0#2 → r.a = q.a ∧ r.b = q.b ∧ r.c = q.c) →
    (r.op = 0#2 → r.fmt ≠ 0#2 → r.ovfEn = q.ovfEn ∧ r.a.extractLsb' 0 16 = q.a.extractLsb' 0 16 ∧
      r.b.extractLsb' 0 16 = q.b.extractLsb' 0 16 ∧ r.c.extractLsb' 0 16 = q.c.extractLsb' 0 16) →
    (r.op = 1#2 → r.a.extractLsb' 0 16 = q.a.extractLsb' 0 16) →
    (r.op = 2#2 → r.a = q.a) →
    answer N r = answer N q

/-- R151, R18: right after reset nothing is pending, `rsp_valid = 0` and `rsp_err = 0`. -/
def Obligations.ResetPortsAndNothingPending : Prop :=
  rspValid State.reset = false ∧ rspErr State.reset = false ∧ State.reset.pending = []

/-- R150, R152: `rst = 1` drops every request accepted and not answered, leaves what was delivered, and
drives `rsp_valid = 0` and `rsp_err = 0`. -/
def Obligations.ResetDropsWhatIsInFlight : Prop :=
  ∀ (s : State) (rest : List HostEvent), s.host = .reset :: rest →
    ∃ t, step s = .next t ∧ t.pending = [] ∧ t.delivered = s.delivered ∧ t.host = rest ∧
      t.req = s.req ∧ t.accepted = s.accepted.take s.delivered.length ∧
      rspValid t = false ∧ rspErr t = false

/-- With an empty list of events a step is an idle cycle: nothing is delivered, even with responses
pending, and nothing is lost. That is the model's choice (log entry 1: R156 would deliver what is
pending `LAT` cycles after its acceptance, and the model has no cycles; `ticks`: log entry 4). Of the
spec is only that the block never halts (R157) and that `rsp_valid = 0` where nothing is delivered
(R33). -/
def Obligations.IdleBlockGoesOn : Prop :=
  ∀ s : State, s.host = [] →
    step s = .next { s with rsp := .idle, ticks := s.ticks + 1 } ∧
    rspValid { s with rsp := .idle, ticks := s.ticks + 1 } = false

/-- The invariant of R25 holds right after reset. -/
def Obligations.ResetAnswersInOrder : Prop := AnswersInOrder State.reset

/-- R25, R152: every step keeps one response for each accepted request, in the order of acceptance,
each the function of its own request; so does a step that takes the fault. -/
def Obligations.AnswersStayInOrder : Prop :=
  ∀ s : State, AnswersInOrder s →
    (∀ t, step s = .next t → AnswersInOrder t) ∧ AnswersInOrder (proceed s)

/-- R25, R144, over whole runs of the model: over any events without a reset, legal and reserved
commands mixed, every request gets its own response, in order, none lost and none disturbed by a fault.
It rests on the model's conventions: deliveries are events of the list (log entry 1), `proceed` goes on
past the fault of a reserved command (log entry 7), `delivered` is a history (log entry 8). -/
def Obligations.EveryRequestIsAnsweredInOrder : Prop :=
  ∀ s : State, (∀ e ∈ s.host, e ≠ .reset) →
    (serveAll s).delivered ++ (serveAll s).pending =
      s.delivered ++ s.pending ++ (requestsOf s.host).map (answer Config.nan) ∧
    ∃ more, (serveAll s).delivered = s.delivered ++ more

/-- R157, R25: a run is over when every accepted request has been answered: requests followed by
enough deliveries leave nothing pending and everything delivered in order. Deliveries as events,
`proceed` and the history `delivered` are the model's conventions (log entries 1, 7, 8). -/
def Obligations.RunEndsWithEveryRequestAnswered : Prop :=
  ∀ (s : State) (rs : List Request) (n : Nat),
    s.host = rs.map .request ++ List.replicate n .deliver → s.pending.length + rs.length ≤ n →
    (serveAll s).pending = [] ∧
    (serveAll s).delivered = s.delivered ++ s.pending ++ rs.map (answer Config.nan)

/-- R33, R150, R152, R156, cycle by cycle for every latency: a request accepted at edge `t` is
answered at edge `t + LAT` unless a reset is sampled from `t` on, a reset edge shows `rsp_valid = 0`
and `rsp_err = 0`, and at every other edge nothing is delivered. Which cycle the ports listed for an
edge belong to is the model's choice (log entry 9). -/
def Obligations.RequestsAreAnsweredAfterLatEdges : Prop :=
  ∀ (N : NanParams) (lat : Nat) (edges : List Edge) (u : Nat) (now : Edge), edges[u]? = some now →
    (now.rst = true → (clockRun N lat clockedReset edges)[u]? = some .afterReset) ∧
    (∀ t e, t + lat = u → edges[t]? = some e → accepts e = true →
      (∀ k g, t ≤ k → k ≤ u → edges[k]? = some g → g.rst = false) →
      (clockRun N lat clockedReset edges)[u]? = some (.response (answer N e.req))) ∧
    (now.rst = false →
      (∀ t e, t + lat = u → edges[t]? = some e → accepts e = true →
        ∃ k g, t ≤ k ∧ k ≤ u ∧ edges[k]? = some g ∧ g.rst = true) →
      (clockRun N lat clockedReset edges)[u]? = some .idle)

/-! ### The instructions: what each answers, and that it changes nothing else

Each answers for every state and every operand, with no condition: there is one mode (R147), nothing to
enable (R153) and no operand that faults (R140). -/

/-- R110 FMA.FP32: `add32(mul32(a, b), c)`, for both values of `CMD[4]`, with the rule's corner cases
and example. -/
def Obligations.FmaFp32Completes : Prop :=
  (∀ (v : Bool) (s : State), exec (.fmaFp32 v) s = .next { s with
      accepted := s.accepted ++ [s.req],
      pending := s.pending ++ [.ok (add32 Config.nan (mul32 Config.nan s.req.a s.req.b) s.req.c)] }) ∧
  (∀ N : NanParams,
    add32 N (mul32 N 0x00800000#32 0x3F000000#32) 0#32 = 0x00400000#32 ∧
    add32 N (mul32 N 0x00000001#32 0x4B000000#32) 0#32 = 0x00800000#32 ∧
    add32 N (mul32 N 0x00000001#32 0x3F000000#32) 0#32 = 0x00000000#32 ∧
    add32 N (mul32 N 0x00000003#32 0x3F000000#32) 0#32 = 0x00000002#32 ∧
    add32 N (mul32 N 0x7F7FFFFF#32 0x40000000#32) 0#32 = 0x7F800000#32 ∧
    mul32 N 0xC0A00000#32 0xC0E00000#32 = 0x420C0000#32 ∧
    add32 N (mul32 N 0xC0A00000#32 0xC0E00000#32) 0xC595A800#32 = 0xC5949000#32)

/-- R107, R111 FMA.FP16: widen, multiply, the policy when `ovf_en = 1`, add, narrow, with the corner
cases and the example of R111. -/
def Obligations.FmaFp16Completes : Prop :=
  (∀ (ovfEn : Bool) (s : State) (A B C p : Word32) (np nc : Word16),
    A = widenFp16 (s.req.a.extractLsb' 0 16) → B = widenFp16 (s.req.b.extractLsb' 0 16) →
    C = widenFp16 (s.req.c.extractLsb' 0 16) → p = mul32 Config.nan A B →
    np = narrowFp16 p → nc = narrowFp16 C →
    exec (.fmaFp16 ovfEn) s = .next { s with
      accepted := s.accepted ++ [s.req],
      pending := s.pending ++ [.ok ((if ovfEn && isInf fp16 np.toNat then np
        else if ovfEn && isInf fp16 nc.toNat then nc
        else narrowFp16 (add32 Config.nan p C)).zeroExtend 32)] }) ∧
  (∀ (N : NanParams) (o : Bool),
    fmaNarrow N .fp16 true 0x5CB0#16 0x5CB0#16 0xFB53#16 = 0x7C00#16 ∧
    fmaNarrow N .fp16 false 0x5CB0#16 0x5CB0#16 0xFB53#16 = 0x7753#16 ∧
    fmaNarrow N .fp16 true 0x7BFF#16 0x3C01#16 0xFBFF#16 = 0x7C00#16 ∧
    fmaNarrow N .fp16 false 0x7BFF#16 0x3C01#16 0xFBFF#16 = 0x53FF#16 ∧
    fmaNarrow N .fp16 o 0x0001#16 0x3C00#16 0x0000#16 = 0x0001#16 ∧
    fmaNarrow N .fp16 o 0x0001#16 0x3800#16 0x0000#16 = 0x0000#16 ∧
    fmaNarrow N .fp16 o 0x0001#16 0x3A00#16 0x0000#16 = 0x0000#16 ∧
    fmaNarrow N .fp16 o 0x03FF#16 0x3C00#16 0x0001#16 = 0x0400#16 ∧
    fmaNarrow N .fp16 o 0x7BFF#16 0x3C00#16 0x4C00#16 = 0x7C00#16 ∧
    fmaNarrow N .fp16 o 0x7BFF#16 0x3C00#16 0x4BFF#16 = 0x7BFF#16 ∧
    fmaNarrow N .fp16 o 0x3C00#16 0x4000#16 0x4000#16 = 0x4400#16)

/-- R107, R112 FMA.BF16: the same steps with the shift as the widening, with the corner cases and the
example of R112. -/
def Obligations.FmaBf16Completes : Prop :=
  (∀ (ovfEn : Bool) (s : State) (A B C p : Word32) (np nc : Word16),
    A = (s.req.a.extractLsb' 0 16).zeroExtend 32 <<< 16 →
    B = (s.req.b.extractLsb' 0 16).zeroExtend 32 <<< 16 →
    C = (s.req.c.extractLsb' 0 16).zeroExtend 32 <<< 16 → p = mul32 Config.nan A B →
    np = narrowBf16 p → nc = narrowBf16 C →
    exec (.fmaBf16 ovfEn) s = .next { s with
      accepted := s.accepted ++ [s.req],
      pending := s.pending ++ [.ok ((if ovfEn && isInf bf16 np.toNat then np
        else if ovfEn && isInf bf16 nc.toNat then nc
        else narrowBf16 (add32 Config.nan p C)).zeroExtend 32)] }) ∧
  (∀ (N : NanParams) (o : Bool),
    fmaNarrow N .bf16 o 0x0001#16 0x3F80#16 0x0000#16 = 0x0000#16 ∧
    fmaNarrow N .bf16 o 0x0080#16 0x3F00#16 0x0000#16 = 0x0000#16 ∧
    fmaNarrow N .bf16 o 0x0080#16 0x3F80#16 0x0001#16 = 0x0081#16 ∧
    fmaNarrow N .bf16 o 0x0040#16 0x4000#16 0x0000#16 = 0x0080#16 ∧
    mul32 N (widenBf16 0x7F7F#16) (widenBf16 0x4000#16) = 0x7F800000#32 ∧
    mul32 N (widenBf16 0x5F35#16) (widenBf16 0x5FB5#16) = 0x7F7FF200#32 ∧
    fmaNarrow N .bf16 true 0x5F35#16 0x5FB5#16 0xFF7F#16 = 0x7F80#16 ∧
    fmaNarrow N .bf16 false 0x5F35#16 0x5FB5#16 0xFF7F#16 = 0x7B72#16 ∧
    fmaNarrow N .bf16 true 0x5F35#16 0x5FB5#16 0xFF80#16 = 0x7F80#16 ∧
    fmaNarrow N .bf16 false 0x5F35#16 0x5FB5#16 0xFF80#16 = 0xFF80#16 ∧
    fmaNarrow N .bf16 o 0x3F80#16 0x4000#16 0x4000#16 = 0x4080#16)

/-- R61 WIDEN.FP16, by the fields of the result in each class (R60, R63: a subnormal with its leading 1
at index `p` becomes the normal with exponent field `103 + p`), whatever `CMD[4]`, `a[31:16]`, `b` and
`c` are, with the corner cases and the example of R61. -/
def Obligations.WidenFp16Completes : Prop :=
  (∀ (v : Bool) (s : State), ∃ w : Word32, ∃ x : Nat,
    x = (s.req.a.extractLsb' 0 16).toNat ∧
    exec (.widenFp16 v) s = .next { s with
      accepted := s.accepted ++ [s.req], pending := s.pending ++ [.ok w] } ∧
    fieldsOf fp32 w.toNat = (match classOf fp16 x with
      | .zero => (signOf fp16 x, 0, 0)
      | .subnormal => (signOf fp16 x, 103 + Nat.log2 (manOf fp16 x),
          (manOf fp16 x * 2 ^ (10 - Nat.log2 (manOf fp16 x)) - 2 ^ 10) * 2 ^ 13)
      | .normal => (signOf fp16 x, expOf fp16 x + 112, manOf fp16 x * 2 ^ 13)
      | .infinity => (signOf fp16 x, 255, 0)
      | .nan => (signOf fp16 x, 255, manOf fp16 x * 2 ^ 13))) ∧
  (widenFp16 0x0000#16 = 0x00000000#32 ∧ widenFp16 0x8000#16 = 0x80000000#32 ∧
   widenFp16 0x0001#16 = 0x33800000#32 ∧ widenFp16 0x03FF#16 = 0x387FC000#32 ∧
   widenFp16 0x0200#16 = 0x38000000#32 ∧ widenFp16 0x0400#16 = 0x38800000#32 ∧
   widenFp16 0x7BFF#16 = 0x477FE000#32 ∧ widenFp16 0x7C00#16 = 0x7F800000#32 ∧
   widenFp16 0xFC00#16 = 0xFF800000#32 ∧ widenFp16 0x7C01#16 = 0x7F802000#32 ∧
   widenFp16 0xFE00#16 = 0xFFC00000#32 ∧ widenFp16 0x3C00#16 = 0x3F800000#32) ∧
  (∀ x : Word16, classOf fp32 (widenFp16 x).toNat ≠ .subnormal ∧ (widenFp16 x).toNat % 2 ^ 13 = 0)

/-- R62 WIDEN.BF16: `a[15:0] << 16`, whatever `CMD[4]`, `a[31:16]`, `b` and `c` are, with the corner
cases and the example of R62. -/
def Obligations.WidenBf16Completes : Prop :=
  (∀ (v : Bool) (s : State), exec (.widenBf16 v) s = .next { s with
      accepted := s.accepted ++ [s.req],
      pending := s.pending ++ [.ok (s.req.a <<< 16)] }) ∧
  (widenBf16 0x0000#16 = 0x00000000#32 ∧ widenBf16 0x8000#16 = 0x80000000#32 ∧
   widenBf16 0x0001#16 = 0x00010000#32 ∧ widenBf16 0x007F#16 = 0x007F0000#32 ∧
   widenBf16 0x0080#16 = 0x00800000#32 ∧ widenBf16 0x7F7F#16 = 0x7F7F0000#32 ∧
   widenBf16 0x7F80#16 = 0x7F800000#32 ∧ widenBf16 0xFF80#16 = 0xFF800000#32 ∧
   widenBf16 0x7F81#16 = 0x7F810000#32 ∧ widenBf16 0xFFC0#16 = 0xFFC00000#32 ∧
   widenBf16 0x3F80#16 = 0x3F800000#32)

/-- R88 NARROW.FP16: the 16-bit result is `narrow_FP16(a)` in the low half, whatever `CMD[4]`, `b` and
`c` are; the corner cases and the example of R88. What `narrow_FP16` is arm by arm is stated in
`NarrowSpecialClasses`, `NarrowNormalRange` and `NarrowUnderflow`. -/
def Obligations.NarrowFp16Completes : Prop :=
  (∀ (v : Bool) (s : State), ∃ w : Word32,
    exec (.narrowFp16 v) s = .next { s with
      accepted := s.accepted ++ [s.req], pending := s.pending ++ [.ok w] } ∧
    w.extractLsb' 0 16 = narrowFp16 s.req.a ∧ w.extractLsb' 16 16 = 0#16) ∧
  (narrowFp16 0x3F801000#32 = 0x3C00#16 ∧ narrowFp16 0x3F803000#32 = 0x3C02#16 ∧
   narrowFp16 0x3F801001#32 = 0x3C01#16 ∧ narrowFp16 0x3F800FFF#32 = 0x3C00#16 ∧
   narrowFp16 0x47800000#32 = 0x7C00#16 ∧ narrowFp16 0x7F7FFFFF#32 = 0x7C00#16 ∧
   narrowFp16 0x477FE000#32 = 0x7BFF#16 ∧ narrowFp16 0x40490FDB#32 = 0x4248#16)

/-- R89 NARROW.BF16: the rule's reduced form on the pattern (zero and subnormals to signed zero,
infinity and NaN truncated with the forced bit, otherwise the 31-bit magnitude rounded as one integer),
whatever `CMD[4]`, `b` and `c` are; the corner cases and the example of R89. -/
def Obligations.NarrowBf16Completes : Prop :=
  (∀ (v : Bool) (s : State) (a m : Nat) (res : Nat), a = s.req.a.toNat →
    m = a % 2 ^ 31 →
    res = (if a / 2 ^ 23 % 2 ^ 8 = 0 then a / 2 ^ 31 * 2 ^ 15
      else if m = 0x7F800000 then a / 2 ^ 16
      else if 0x7F800000 < m then
        (if a / 2 ^ 16 % 2 ^ 7 ≠ 0 then a / 2 ^ 16 else a / 2 ^ 16 + 1)
      else rneShift m 16 + a / 2 ^ 31 * 2 ^ 15) →
    exec (.narrowBf16 v) s = .next { s with
      accepted := s.accepted ++ [s.req],
      pending := s.pending ++ [.ok (BitVec.ofNat 32 res)] } ∧ res < 2 ^ 16) ∧
  (narrowBf16 0x007FFFFF#32 = 0x0000#16 ∧ narrowBf16 0x00010000#32 = 0x0000#16 ∧
   narrowBf16 0x807F0000#32 = 0x8000#16 ∧ narrowBf16 0x00800000#32 = 0x0080#16 ∧
   narrowBf16 0x00808000#32 = 0x0080#16 ∧ narrowBf16 0x00FF8000#32 = 0x0100#16 ∧
   narrowBf16 0x3F808000#32 = 0x3F80#16 ∧ narrowBf16 0x3F818000#32 = 0x3F82#16 ∧
   narrowBf16 0x3F808001#32 = 0x3F81#16 ∧ narrowBf16 0x3F807FFF#32 = 0x3F80#16 ∧
   narrowBf16 0x7F7F8000#32 = 0x7F80#16 ∧ narrowBf16 0x7F7FFFFF#32 = 0x7F80#16 ∧
   narrowBf16 0x7F7F0000#32 = 0x7F7F#16 ∧ narrowBf16 0xC595C000#32 = 0xC596#16)

/-! ### Formats and values -/

/-- R51: a pattern of any of the three formats is its three fields put together again. -/
def Obligations.PatternIsItsFields : Prop :=
  ∀ (f : Fmt) (x : Nat), x < 2 ^ (descOf f).W →
    pack (descOf f) (signOf (descOf f) x) (expOf (descOf f) x) (manOf (descOf f) x) = x ∧
    (signOf (descOf f) x).toNat * 2 ^ ((descOf f).W - 1) + expOf (descOf f) x * 2 ^ (descOf f).M
      + manOf (descOf f) x = x

/-- R53: the value of every pattern. A zero is +0 or -0 and an infinity is +infinity or -infinity by the
sign, a NaN has no value, and the real number of a finite pattern is its magnitude in units of the
smallest subnormal, with its sign (the units are the representation the model computes with, log entry
11). -/
def Obligations.ValueIsAWholeNumberOfUnits : Prop :=
  ∀ (f : Fmt) (x : Nat),
    (isFinite (descOf f) x = true →
      realOf (descOf f) x =
        some ((-1) ^ (signOf (descOf f) x).toNat * (unitsOf (descOf f) x : ℚ)
          / 2 ^ unitScale (descOf f))) ∧
    (isZero (descOf f) x = true → valOf (descOf f) x = some (.zero (signOf (descOf f) x))) ∧
    (isInf (descOf f) x = true → valOf (descOf f) x = some (.infinity (signOf (descOf f) x))) ∧
    (isNan (descOf f) x = true → valOf (descOf f) x = none)

/-- R59: the next pattern of the same sign is one ULP away. -/
def Obligations.NextPatternIsOneUlpAway : Prop :=
  ∀ (f : Fmt) (x : Nat) (v w : ℚ), x + 1 < 2 ^ (descOf f).W →
    signOf (descOf f) x = signOf (descOf f) (x + 1) →
    realOf (descOf f) x = some v → realOf (descOf f) (x + 1) = some w →
    |w - v| = ulpOf (descOf f) x

/-! ### Widening -/

/-- R66: widening is exact: the value, the sign of zero and the signed infinity are kept, and a NaN
gives a NaN. -/
def Obligations.WideningIsExact : Prop :=
  ∀ (f : NarrowFmt) (x : Word16),
    valOf fp32 (widen f x).toNat = valOf (narrowDesc f) x.toNat ∧
    signOf fp32 (widen f x).toNat = signOf (narrowDesc f) x.toNat ∧
    isInf fp32 (widen f x).toNat = isInf (narrowDesc f) x.toNat ∧
    isNan fp32 (widen f x).toNat = isNan (narrowDesc f) x.toNat

/-- R65: a widened NaN keeps its sign and has the narrow mantissa in the top bits of the FP32 one,
which is not zero. -/
def Obligations.WidenedNanKeepsItsPayload : Prop :=
  ∀ (f : NarrowFmt) (x : Word16), isNan (narrowDesc f) x.toNat = true →
    fieldsOf fp32 (widen f x).toNat =
      (signOf (narrowDesc f) x.toNat, 255,
        manOf (narrowDesc f) x.toNat * 2 ^ (23 - (narrowDesc f).M)) ∧
    manOf fp32 (widen f x).toNat ≠ 0

/-- R64: for BF16 the generic function of R60 and the shift of R62 agree on the four classes other
than subnormal. -/
def Obligations.GenericBf16WideningIsTheShift : Prop :=
  ∀ x : Word16, classOf bf16 x.toNat ≠ .subnormal → widenGeneric bf16 x = widenBf16 x

/-! ### The rounder -/

/-- R75: `rne_shift(v, n)` is `RNE_int(v / 2^n)`. -/
def Obligations.RneShiftRoundsToNearestEven : Prop :=
  ∀ v n : Nat, (rneShift v n : Int) = rneInt ((v : ℚ) / 2 ^ n)

/-- R72: the increment decision for every round, sticky and least significant kept bit. -/
def Obligations.IncrementTruthTable : Prop :=
  (∀ l < 2, rneInc 0 0 l = 0 ∧ rneInc 0 1 l = 0 ∧ rneInc 1 1 l = 1) ∧
  rneInc 1 0 0 = 0 ∧ rneInc 1 0 1 = 1

/-- R74: shift amounts 0, 1, the width and more, with the kept, round and sticky bits of each. -/
def Obligations.RounderAtTheFieldBoundary : Prop :=
  ∀ v w n : Nat, v < 2 ^ w →
    rneShift v 0 = v ∧
    (rneKept v 1 = v / 2 ∧ rneRound v 1 = v % 2 ∧ rneSticky v 1 = 0 ∧
      rneShift v 1 = v / 2 + (if v % 4 = 3 then 1 else 0)) ∧
    (0 < w → rneKept v w = 0 ∧ rneRound v w = v / 2 ^ (w - 1) ∧
      rneSticky v w = (if v % 2 ^ (w - 1) ≠ 0 then 1 else 0) ∧
      rneShift v w = (if 2 ^ (w - 1) < v then 1 else 0)) ∧
    (w < n → rneKept v n = 0 ∧ rneRound v n = 0 ∧
      rneSticky v n = (if v ≠ 0 then 1 else 0) ∧ rneShift v n = 0)

/-- R73: the result can be one above the largest value of the kept field, and no more: it is `2^(w-n)`
exactly when the kept bits are all ones and the rounder increments. -/
def Obligations.RounderCarriesOut : Prop :=
  ∀ v w n : Nat, v < 2 ^ w → 0 < n → n ≤ w →
    rneShift v n ≤ 2 ^ (w - n) ∧
    (rneShift v n = 2 ^ (w - n) ↔
      rneKept v n = 2 ^ (w - n) - 1 ∧
        rneInc (rneRound v n) (rneSticky v n) (rneKept v n % 2) = 1)

/-! ### Narrowing -/

/-- R81, R82, R83: an FP32 zero or subnormal gives the signed zero, an infinity the signed infinity, a
NaN a NaN with the truncated mantissa or, were that zero, with 1. -/
def Obligations.NarrowSpecialClasses : Prop :=
  ∀ (f : NarrowFmt) (x : Word32),
    (expOf fp32 x.toNat = 0 →
      fieldsOf (narrowDesc f) (narrow f x).toNat = (x.msb, 0, 0)) ∧
    (expOf fp32 x.toNat = 255 → manOf fp32 x.toNat = 0 →
      fieldsOf (narrowDesc f) (narrow f x).toNat = (x.msb, emax (narrowDesc f), 0)) ∧
    (expOf fp32 x.toNat = 255 → manOf fp32 x.toNat ≠ 0 →
      fieldsOf (narrowDesc f) (narrow f x).toNat =
        (x.msb, emax (narrowDesc f),
          max 1 (manOf fp32 x.toNat / 2 ^ (23 - (narrowDesc f).M))))

/-- R84, R85, R86: an FP32 normal with rebiased exponent `e >= EMAX` gives the signed infinity; one with
`1 <= e < EMAX` gives `S | ((e << M) + rne_shift(m32, 23 - M))`, the carry running into the exponent
and up to infinity. -/
def Obligations.NarrowNormalRange : Prop :=
  ∀ (f : NarrowFmt) (x : Word32) (e : Int), 1 ≤ expOf fp32 x.toNat → expOf fp32 x.toNat ≤ 254 →
    e = (expOf fp32 x.toNat : Int) - 127 + (narrowDesc f).bias →
    ((emax (narrowDesc f) : Int) ≤ e →
      (narrow f x).toNat = x.msb.toNat * 2 ^ 15 + emax (narrowDesc f) * 2 ^ (narrowDesc f).M) ∧
    (1 ≤ e → e < emax (narrowDesc f) →
      (narrow f x).toNat = x.msb.toNat * 2 ^ 15
        + (e.toNat * 2 ^ (narrowDesc f).M + rneShift (manOf fp32 x.toNat) (23 - (narrowDesc f).M)))

/-- R87: an FP32 normal with rebiased exponent `e <= 0` gives the signed zero when `1 - e` exceeds the
mantissa field, and otherwise the significand shifted and rounded, whose carry is the smallest
normal. -/
def Obligations.NarrowUnderflow : Prop :=
  ∀ (f : NarrowFmt) (x : Word32) (e : Int), 1 ≤ expOf fp32 x.toNat → expOf fp32 x.toNat ≤ 254 →
    e = (expOf fp32 x.toNat : Int) - 127 + (narrowDesc f).bias → e ≤ 0 →
    ((narrowDesc f).M < 1 - e → (narrow f x).toNat = x.msb.toNat * 2 ^ 15) ∧
    (1 - e ≤ (narrowDesc f).M →
      (narrow f x).toNat = x.msb.toNat * 2 ^ 15
        + rneShift (2 ^ 23 + manOf fp32 x.toNat) (23 - (narrowDesc f).M + (1 - e).toNat))

/-- R90: on FP32 normals `narrow_BF16` rounds the 31-bit magnitude as one integer, which is also one
addition and a shift on the pattern; it never gives a BF16 subnormal. -/
def Obligations.NarrowBf16RoundsTheMagnitude : Prop :=
  ∀ x : Word32,
    (1 ≤ expOf fp32 x.toNat → expOf fp32 x.toNat ≤ 254 →
      (narrowBf16 x).toNat = x.msb.toNat * 2 ^ 15 + rneShift (x.toNat % 2 ^ 31) 16 ∧
      (narrowBf16 x).toNat = (x.toNat + 0x7FFF + x.toNat / 2 ^ 16 % 2) / 2 ^ 16) ∧
    classOf bf16 (narrowBf16 x).toNat ≠ .subnormal

/-- R67, R93: both directions keep the sign bit of every input. -/
def Obligations.ConversionsKeepTheSign : Prop :=
  (∀ (f : NarrowFmt) (x : Word16), (widen f x).msb = x.msb) ∧
  (∀ (f : NarrowFmt) (x : Word32), (narrow f x).msb = x.msb)

/-- R95: narrowing gives a NaN exactly for a NaN, and a NaN it gives has a mantissa that is not zero. -/
def Obligations.NarrowGivesNanOnlyForNan : Prop :=
  ∀ (f : NarrowFmt) (x : Word32),
    isNan (narrowDesc f) (narrow f x).toNat = isNan fp32 x.toNat ∧
    (isNan fp32 x.toNat = true → manOf (narrowDesc f) (narrow f x).toNat ≠ 0)

/-- R94: narrowing keeps the order of magnitudes of two FP32 normals of one sign and one exponent. -/
def Obligations.NarrowIsMonotone : Prop :=
  ∀ (f : NarrowFmt) (x y : Word32), x.msb = y.msb → expOf fp32 x.toNat = expOf fp32 y.toNat →
    1 ≤ expOf fp32 x.toNat → expOf fp32 x.toNat ≤ 254 →
    manOf fp32 x.toNat ≤ manOf fp32 y.toNat →
    (narrow f x).toNat % 2 ^ 15 ≤ (narrow f y).toNat % 2 ^ 15

/-- R92: the round trip is the identity on every FP16 pattern and on every BF16 pattern but the
subnormals, each of which comes back as the zero of its sign. -/
def Obligations.RoundTrip : Prop :=
  (∀ x : Word16, narrowFp16 (widenFp16 x) = x) ∧
  (∀ x : Word16, classOf bf16 x.toNat ≠ .subnormal → narrowBf16 (widenBf16 x) = x) ∧
  (∀ x : Word16, classOf bf16 x.toNat = .subnormal →
    narrowBf16 (widenBf16 x) = if x.msb then 0x8000#16 else 0x0000#16)

/-- R91, for the finite inputs (an infinity is `NarrowSpecialClasses`): narrowing a finite FP32 value is the nearest-even conversion to the narrow format except for
FP16 magnitudes strictly between `2^-25` and `2^-24` and BF16 images of FP32 subnormals above
`2^-134`; there it is the signed zero where nearest-even gives the smallest FP16 subnormal, or a BF16
subnormal or the smallest BF16 normal. "Nearest-even" is `roundTo` with the narrow descriptor, the
model's reading of the conversion the rule compares with (log entry 11). -/
def Obligations.NarrowIsNearestEvenButInTwoRegions : Prop :=
  ∀ (f : NarrowFmt) (x : Word32) (mag nearest : Nat), isFinite fp32 x.toNat = true →
    mag = x.toNat % 2 ^ 31 →
    nearest = roundTo (narrowDesc f) x.msb (unitsOf fp32 x.toNat) (unitScale fp32) →
    (¬ (f = .fp16 ∧ 0x33000001 ≤ mag ∧ mag ≤ 0x337FFFFF) →
      ¬ (f = .bf16 ∧ 0x00008001 ≤ mag ∧ mag ≤ 0x007FFFFF) → (narrow f x).toNat = nearest) ∧
    (f = .fp16 → 0x33000001 ≤ mag → mag ≤ 0x337FFFFF →
      (narrow f x).toNat = x.msb.toNat * 2 ^ 15 ∧ nearest = x.msb.toNat * 2 ^ 15 + 1) ∧
    (f = .bf16 → 0x00008001 ≤ mag → mag ≤ 0x007FFFFF →
      (narrow f x).toNat = x.msb.toNat * 2 ^ 15 ∧
      1 ≤ nearest % 2 ^ 15 ∧ nearest % 2 ^ 15 ≤ 0x0080 ∧ nearest / 2 ^ 15 = x.msb.toNat)

/-! ### The FP32 arithmetic -/

/-- R102: the dyadic rounding that the machine runs is `round32(s, r)` over exact reals, letter for
letter, for every exact value `n / 2^d` (that form of the exact reals is the model's, log entry 11). -/
def Obligations.RoundThirtyTwoIsTheRealRounding : Prop :=
  ∀ (s : Bool) (n d : Nat), round32 s n d = realRound32 s ((n : ℚ) / 2 ^ d)

/-- R102: `round32` gives the FP32 pattern of its sign nearest to the exact real, the one with the even
mantissa on a tie; from `2^128 - 2^103` on it is infinity, never a NaN. The exact reals are in the form
`n / 2^d` (log entry 11). -/
def Obligations.RoundThirtyTwoIsNearest : Prop :=
  ∀ (s : Bool) (n d : Nat) (r : ℚ), r = (n : ℚ) / 2 ^ d →
    signOf fp32 (round32 s n d).toNat = s ∧
    (2 ^ 128 - 2 ^ 103 ≤ r → isInf fp32 (round32 s n d).toNat = true) ∧
    (r < 2 ^ 128 - 2 ^ 103 → ∃ v : ℚ, realOf fp32 (round32 s n d).toNat = some v ∧
      ∀ (z : Word32) (u : ℚ), realOf fp32 z.toNat = some u → |(|v| - r)| ≤ |(|u| - r)| ∧
        (|(|v| - r)| = |(|u| - r)| → |u| ≠ |v| → manOf fp32 (round32 s n d).toNat % 2 = 0))

/-- R103: `mul32` in every class: a NaN operand or infinity times zero gives the NaN of `NAN32_MUL`,
infinity times anything else the signed infinity, and finite operands the rounded exact product; the
sign is the exclusive-or of the signs. -/
def Obligations.MultiplyRoundsTheExactProduct : Prop :=
  ∀ (N : NanParams) (x y : Word32),
    (isNan fp32 x.toNat = true ∨ isNan fp32 y.toNat = true →
      mul32 N x y = nanPattern (N.mul x y)) ∧
    (isInf fp32 x.toNat = true ∧ isZero fp32 y.toNat = true ∨
      isZero fp32 x.toNat = true ∧ isInf fp32 y.toNat = true →
      mul32 N x y = nanPattern (N.mul x y)) ∧
    (isNan fp32 x.toNat = false → isNan fp32 y.toNat = false →
      isZero fp32 x.toNat = false → isZero fp32 y.toNat = false →
      isInf fp32 x.toNat = true ∨ isInf fp32 y.toNat = true →
      mul32 N x y = if x.msb ^^ y.msb then 0xFF800000#32 else 0x7F800000#32) ∧
    (∀ u v : ℚ, realOf fp32 x.toNat = some u → realOf fp32 y.toNat = some v →
      mul32 N x y = realRound32 (x.msb ^^ y.msb) (|u| * |v|) ∧ (mul32 N x y).msb = (x.msb ^^ y.msb))

/-- R104: `add32` in every class: a NaN operand or opposite infinities give the NaN of `NAN32_ADD`, an
infinity otherwise wins, an exact zero sum is +0 unless both are zeros of one sign, and every other
sum of finite operands is rounded. -/
def Obligations.AddRoundsTheExactSum : Prop :=
  ∀ (N : NanParams) (x y : Word32),
    (isNan fp32 x.toNat = true ∨ isNan fp32 y.toNat = true →
      add32 N x y = nanPattern (N.add x y)) ∧
    (isInf fp32 x.toNat = true → isInf fp32 y.toNat = true → x.msb ≠ y.msb →
      add32 N x y = nanPattern (N.add x y)) ∧
    (isInf fp32 x.toNat = true → isInf fp32 y.toNat = true → x.msb = y.msb → add32 N x y = x) ∧
    (isInf fp32 x.toNat = true → isFinite fp32 y.toNat = true → add32 N x y = x) ∧
    (isFinite fp32 x.toNat = true → isInf fp32 y.toNat = true → add32 N x y = y) ∧
    (∀ u v : ℚ, realOf fp32 x.toNat = some u → realOf fp32 y.toNat = some v →
      (u + v ≠ 0 → add32 N x y = realRound32 (decide (u + v < 0)) |u + v|) ∧
      (u + v = 0 → isZero fp32 x.toNat = true → isZero fp32 y.toNat = true → x.msb = y.msb →
        add32 N x y = x) ∧
      (u + v = 0 → ¬ (isZero fp32 x.toNat = true ∧ isZero fp32 y.toNat = true ∧ x.msb = y.msb) →
        add32 N x y = 0#32))

/-- R104, R105: `add32` is commutative where its result is no NaN, a non-zero sum never rounds to zero,
and a zero added to a finite non-zero number gives that number. -/
def Obligations.AddCommutesAndKeepsNonZero : Prop :=
  ∀ (N : NanParams) (x y : Word32),
    (isNan fp32 (add32 N x y).toNat = false → add32 N x y = add32 N y x) ∧
    (∀ u v : ℚ, realOf fp32 x.toNat = some u → realOf fp32 y.toNat = some v → u + v ≠ 0 →
      isZero fp32 (add32 N x y).toNat = false) ∧
    (isZero fp32 x.toNat = true → isFinite fp32 y.toNat = true → isZero fp32 y.toNat = false →
      add32 N x y = y ∧ add32 N y x = y)

/-- R106: the open NaN patterns are exactly the FP32 NaNs: each choice of the parameters gives one, and
each is given by a choice (log entry 3). -/
def Obligations.NanParametersRangeOverTheNans : Prop :=
  (∀ c : NanChoice, expOf fp32 (nanPattern c).toNat = 255 ∧ manOf fp32 (nanPattern c).toNat ≠ 0) ∧
  (∀ w : Word32, isNan fp32 w.toNat = true → ∃ c : NanChoice, nanPattern c = w)

/-- R106: only NaN patterns are open: for two pairs of NaN parameters the responses to a request are the
same, or both are results that are NaNs of the result's format. -/
def Obligations.OnlyNanPatternsAreOpen : Prop :=
  ∀ (N K : NanParams) (r : Request), answer N r = answer K r ∨
    ∃ (f : Fmt) (v w : Word32), answer N r = .ok v ∧ answer K r = .ok w ∧ r.op = 0#2 ∧
      r.fmt = fmtCode f ∧ isNan (descOf f) v.toNat = true ∧ isNan (descOf f) w.toNat = true

/-! ### The multiply-add -/

/-- R108, R109: with the policy on, a product that narrows to infinity is the result whatever `c` is;
else a `c` that narrows to infinity is the result whatever the product is; else the two paths agree. -/
def Obligations.OverflowPolicyTestsTheProductFirst : Prop :=
  ∀ (N : NanParams) (f : NarrowFmt) (a b c : Word16) (np nc : Word16),
    np = narrow f (mul32 N (widen f a) (widen f b)) → nc = narrow f (widen f c) →
    (isInf (narrowDesc f) np.toNat = true → fmaNarrow N f true a b c = np) ∧
    (isInf (narrowDesc f) np.toNat = false → isInf (narrowDesc f) nc.toNat = true →
      fmaNarrow N f true a b c = nc) ∧
    (isInf (narrowDesc f) np.toNat = false → isInf (narrowDesc f) nc.toNat = false →
      fmaNarrow N f true a b c = fmaNarrow N f false a b c) ∧
    fmaNarrow N f false a b c =
      narrow f (add32 N (mul32 N (widen f a) (widen f b)) (widen f c))

/-- R109 items 1 and 2: when the two tests fire: the product narrows to infinity exactly from 65520 (FP16)
or from the pattern `0x7F7F8000` (BF16) on, and `c` exactly when it is itself an infinity, which is
then returned. -/
def Obligations.WhenTheOverflowTestsFire : Prop :=
  (∀ p : Word32, isNan fp32 p.toNat = false →
    (isInf fp16 (narrowFp16 p).toNat = true ↔ 0x477FF000 ≤ p.toNat % 2 ^ 31) ∧
    (isInf bf16 (narrowBf16 p).toNat = true ↔ 0x7F7F8000 ≤ p.toNat % 2 ^ 31)) ∧
  (∀ p : Word32, isNan fp32 p.toNat = true →
    isInf fp16 (narrowFp16 p).toNat = false ∧ isInf bf16 (narrowBf16 p).toNat = false) ∧
  (∀ (f : NarrowFmt) (c : Word16),
    isInf (narrowDesc f) (narrow f (widen f c)).toNat = isInf (narrowDesc f) c.toNat ∧
    (isInf (narrowDesc f) c.toNat = true → narrow f (widen f c) = c))

/-- R113: the FP32 product of two finite FP16 operands is exact; that of two BF16 operands is exact
whenever it lies in FP32's normal range. -/
def Obligations.ProductsAreExactForFp16AndInBf16NormalRange : Prop :=
  ∀ (N : NanParams) (f : NarrowFmt) (a b : Word16) (u v : ℚ),
    realOf (narrowDesc f) a.toNat = some u → realOf (narrowDesc f) b.toNat = some v →
    (f = .bf16 → 1 / 2 ^ 126 ≤ |u * v| ∧ |u * v| < 2 ^ 128) →
    realOf fp32 (mul32 N (widen f a) (widen f b)).toNat = some (u * v)

/-- R114: the signs of zero results, and a zero product that leaves a non-zero `c` as it is. -/
def Obligations.ZeroProductsAndTheirSigns : Prop :=
  (∀ (N : NanParams) (x y : Word32), isFinite fp32 x.toNat = true → isFinite fp32 y.toNat = true →
    isZero fp32 x.toNat = true ∨ isZero fp32 y.toNat = true →
    mul32 N x y = (if x.msb ^^ y.msb then 0x80000000#32 else 0x00000000#32) ∧
    (∀ c : Word32, isFinite fp32 c.toNat = true → isZero fp32 c.toNat = false →
      add32 N (mul32 N x y) c = c) ∧
    add32 N (mul32 N x y) 0x00000000#32 = 0x00000000#32 ∧
    add32 N (mul32 N x y) 0x80000000#32 =
      (if x.msb ^^ y.msb then 0x80000000#32 else 0x00000000#32)) ∧
  (∀ (N : NanParams),
    add32 N (mul32 N 0x3F800000#32 0x3F800000#32) 0xBF800000#32 = 0x00000000#32 ∧
    add32 N (mul32 N 0x3F800000#32 0xBF800000#32) 0x3F800000#32 = 0x00000000#32 ∧
    fmaNarrow N .fp16 false 0x8000#16 0x4000#16 0x8000#16 = 0x8000#16 ∧
    fmaNarrow N .fp16 false 0x0000#16 0x4000#16 0x4200#16 = 0x4200#16)

/-- R115: FMA.FP32 on infinities and NaNs: infinity times zero and every NaN operand give a NaN; a
product's infinity stays unless `c` is the opposite infinity, which gives a NaN; a finite product plus
an infinite `c` is `c`. -/
def Obligations.InfinitiesAndNansOfTheSum : Prop :=
  (∀ (N : NanParams) (a b c : Word32),
    (isInf fp32 a.toNat = true ∧ isZero fp32 b.toNat = true ∨
      isZero fp32 a.toNat = true ∧ isInf fp32 b.toNat = true →
      isNan fp32 (add32 N (mul32 N a b) c).toNat = true) ∧
    (isNan fp32 a.toNat = true ∨ isNan fp32 b.toNat = true ∨ isNan fp32 c.toNat = true →
      isNan fp32 (add32 N (mul32 N a b) c).toNat = true) ∧
    (isInf fp32 (mul32 N a b).toNat = true → isFinite fp32 c.toNat = true →
      add32 N (mul32 N a b) c = mul32 N a b) ∧
    (isInf fp32 (mul32 N a b).toNat = true → isInf fp32 c.toNat = true →
      ((mul32 N a b).msb = c.msb → add32 N (mul32 N a b) c = c) ∧
      ((mul32 N a b).msb ≠ c.msb → isNan fp32 (add32 N (mul32 N a b) c).toNat = true)) ∧
    (isFinite fp32 (mul32 N a b).toNat = true → isInf fp32 c.toNat = true →
      add32 N (mul32 N a b) c = c)) ∧
  (∀ (N : NanParams) (o : Bool),
    isNan fp32 (add32 N (mul32 N 0x7F7FFFFF#32 0x40000000#32) 0xFF800000#32).toNat = true ∧
    add32 N (mul32 N 0x7F7FFFFF#32 0x40000000#32) 0xFF7FFFFF#32 = 0x7F800000#32 ∧
    fmaNarrow N .fp16 o 0x7C00#16 0x4000#16 0x4000#16 = 0x7C00#16)

/-- R116: the five inputs that tell the operation from a fused multiply-add. -/
def Obligations.TwoRoundingsNotOne : Prop :=
  ∀ (N : NanParams) (o : Bool),
    (mul32 N 0x3F800800#32 0x3F800800#32 = 0x3F801000#32 ∧
      add32 N (mul32 N 0x3F800800#32 0x3F800800#32) 0xBF801000#32 = 0x00000000#32) ∧
    (mul32 N 0x40490FDB#32 0x402DF854#32 = 0x4108A2C0#32 ∧
      add32 N (mul32 N 0x40490FDB#32 0x402DF854#32) 0x3FB504F3#32 = 0x411F435E#32) ∧
    add32 N (mul32 N 0x7F7FFFFF#32 0x40000000#32) 0xFF7FFFFF#32 = 0x7F800000#32 ∧
    (mul32 N 0x80800000#32 0x00800000#32 = 0x80000000#32 ∧
      add32 N (mul32 N 0x80800000#32 0x00800000#32) 0x00000000#32 = 0x00000000#32) ∧
    fmaNarrow N .fp16 o 0x3E00#16 0x3C01#16 0x8001#16 = 0x3E02#16

/-! ### The comparison policies -/

/-- R131, R132: Precise passes exactly on identical patterns of the format's width; ULP passes exactly
when the two's-complement readings differ by at most the format's tolerance, and reports the
distance. -/
def Obligations.PreciseAndUlpPolicies : Prop :=
  ∀ (T : Tolerances) (f : Fmt) (a b c x y : Word32),
    ((compareBits T f .precise a b c x y).pass = true ↔
      x.toNat % 2 ^ (descOf f).W = y.toNat % 2 ^ (descOf f).W) ∧
    (compareBits T f .precise a b c x y).diag = .absent ∧
    (∃ d : Nat, (d : Int) = |sint (descOf f).W (x.toNat % 2 ^ (descOf f).W)
        - sint (descOf f).W (y.toNat % 2 ^ (descOf f).W)| ∧
      (compareBits T f .ulp a b c x y).diag = .ulpDistance d ∧
      ((compareBits T f .ulp a b c x y).pass = true ↔
        d ≤ (if f = .fp32 then T.ulpTolFp32 else T.ulpTol16)))

/-- R133, R134: RelativeError passes on an exact match; otherwise it fails when an operand, the candidate
or the reference is no finite real or the denominator is zero, and else passes exactly when the ratio
lies strictly below the threshold, the relaxed one below the floor, and reports the ratio. That the
patterns stand on 32-bit carriers of which only the format's width is read is the model's choice (log
entry 12). -/
def Obligations.RelativeErrorPolicy : Prop :=
  ∀ (T : Tolerances) (f : Fmt) (a b c x y : Word32) (pat : Word32 → Nat),
    (∀ w, pat w = w.toNat % 2 ^ (descOf f).W) →
    (pat x = pat y → (compareBits T f .relativeError a b c x y).pass = true) ∧
    (pat x ≠ pat y → (∃ w ∈ [x, y, a, b, c], isFinite (descOf f) (pat w) = false) →
      (compareBits T f .relativeError a b c x y).pass = false) ∧
    (∀ cf rf va vb vc den : ℚ, pat x ≠ pat y →
      realOf (descOf f) (pat x) = some cf → realOf (descOf f) (pat y) = some rf →
      realOf (descOf f) (pat a) = some va → realOf (descOf f) (pat b) = some vb →
      realOf (descOf f) (pat c) = some vc → den = max |va * vb| |vc| →
      (den = 0 → (compareBits T f .relativeError a b c x y).pass = false) ∧
      (den ≠ 0 →
        ((compareBits T f .relativeError a b c x y).pass = true ↔
          |cf - rf| / den < (if den < T.relFloor then T.relThreshRelaxed
            else if f = .fp32 then T.relThreshFp32 else T.relThresh16)) ∧
        (compareBits T f .relativeError a b c x y).diag = .relError (|cf - rf| / den)))
end

