-- ==== Sys2Proof/Laws/Formats.lean ====
section
/-! SUPPORT. Fields and patterns (R51): the bounds of the fields, and `pack` as a sum whose fields are
the ones it was given. -/

namespace Sys2Proof.Machine

theorem manOf_lt (F : FormatDesc) (x : Nat) : manOf F x < 2 ^ F.M := Nat.mod_lt _ (Nat.two_pow_pos _)

theorem expOf_lt (F : FormatDesc) (x : Nat) : expOf F x < 2 ^ F.E := Nat.mod_lt _ (Nat.two_pow_pos _)

/-- `pack` adds its fields up when each fits its place (R51). -/
theorem pack_eq_sum (F : FormatDesc) (s : Bool) (e m : Nat) (hW : F.W = 1 + F.E + F.M)
    (he : e < 2 ^ F.E) (hm : m < 2 ^ F.M) :
    pack F s e m = s.toNat * 2 ^ (F.W - 1) + e * 2 ^ F.M + m := by
  have hW1 : F.W - 1 = F.E + F.M := by omega
  have h1 : e <<< F.M < 2 ^ (F.W - 1) := by
    rw [Nat.shiftLeft_eq, hW1, Nat.pow_add]
    exact Nat.mul_lt_mul_of_pos_right he (Nat.two_pow_pos _)
  have h2 : s.toNat <<< (F.W - 1) ||| e <<< F.M = (s.toNat * 2 ^ F.E + e) <<< F.M := by
    rw [← Nat.shiftLeft_add_eq_or_of_lt h1, Nat.shiftLeft_eq, Nat.shiftLeft_eq, Nat.shiftLeft_eq,
      hW1, Nat.pow_add]
    ring
  unfold pack
  rw [h2, ← Nat.shiftLeft_add_eq_or_of_lt hm, Nat.shiftLeft_eq, hW1, Nat.pow_add]
  ring

/-- The mantissa field of a packed pattern (R51). -/
theorem manOf_pack (F : FormatDesc) (s : Bool) (e m : Nat) (hW : F.W = 1 + F.E + F.M)
    (he : e < 2 ^ F.E) (hm : m < 2 ^ F.M) : manOf F (pack F s e m) = m := by
  have hW1 : F.W - 1 = F.E + F.M := by omega
  rw [pack_eq_sum F s e m hW he hm, hW1, Nat.pow_add]
  unfold manOf
  rw [show s.toNat * (2 ^ F.E * 2 ^ F.M) + e * 2 ^ F.M + m
      = m + 2 ^ F.M * (s.toNat * 2 ^ F.E + e) by ring,
    Nat.add_mul_mod_self_left, Nat.mod_eq_of_lt hm]

/-- The exponent field of a packed pattern (R51). -/
theorem expOf_pack (F : FormatDesc) (s : Bool) (e m : Nat) (hW : F.W = 1 + F.E + F.M)
    (he : e < 2 ^ F.E) (hm : m < 2 ^ F.M) : expOf F (pack F s e m) = e := by
  have hW1 : F.W - 1 = F.E + F.M := by omega
  rw [pack_eq_sum F s e m hW he hm, hW1, Nat.pow_add]
  unfold expOf
  rw [Nat.shiftRight_eq_div_pow,
    show s.toNat * (2 ^ F.E * 2 ^ F.M) + e * 2 ^ F.M + m
      = m + 2 ^ F.M * (e + 2 ^ F.E * s.toNat) by ring,
    Nat.add_mul_div_left _ _ (Nat.two_pow_pos _), Nat.div_eq_of_lt hm, Nat.zero_add,
    Nat.add_mul_mod_self_left, Nat.mod_eq_of_lt he]

/-- The sign of a packed pattern (R51). -/
theorem signOf_pack (F : FormatDesc) (s : Bool) (e m : Nat) (hW : F.W = 1 + F.E + F.M)
    (he : e < 2 ^ F.E) (hm : m < 2 ^ F.M) : signOf F (pack F s e m) = s := by
  have hW1 : F.W - 1 = F.E + F.M := by omega
  have hlt : e * 2 ^ F.M + m < 2 ^ (F.E + F.M) := by
    rw [Nat.pow_add]
    calc e * 2 ^ F.M + m < e * 2 ^ F.M + 2 ^ F.M := by omega
      _ = (e + 1) * 2 ^ F.M := by ring
      _ ≤ 2 ^ F.E * 2 ^ F.M := Nat.mul_le_mul_right _ he
  unfold signOf
  rw [pack_eq_sum F s e m hW he hm, hW1, Nat.add_assoc, Nat.mul_comm,
    Nat.testBit_two_pow_mul_add _ hlt, if_neg (Nat.lt_irrefl _), Nat.sub_self]
  cases s <;> rfl

end Sys2Proof.Machine
end

