-- ==== Sys2Proof/Laws/Classes.lean ====
section
/-! SUPPORT. The classes (R52) by exponent and mantissa, the reals of patterns (R53), the sign bit of the fixed-width patterns, and
the open NaN patterns (R106). -/

namespace Sys2Proof.Machine

theorem isZero_iff (F : FormatDesc) (x : Nat) :
    isZero F x = true ↔ expOf F x = 0 ∧ manOf F x = 0 := by
  unfold isZero classOf
  split_ifs <;> simp_all

theorem isInf_iff (F : FormatDesc) (x : Nat) (hF : 0 < emax F) :
    isInf F x = true ↔ expOf F x = emax F ∧ manOf F x = 0 := by
  unfold isInf classOf
  split_ifs <;> simp_all
  all_goals omega

theorem isNan_iff (F : FormatDesc) (x : Nat) (hF : 0 < emax F) :
    isNan F x = true ↔ expOf F x = emax F ∧ manOf F x ≠ 0 := by
  unfold isNan classOf
  split_ifs <;> simp_all
  all_goals omega

theorem isFinite_iff (F : FormatDesc) (x : Nat) : isFinite F x = true ↔ expOf F x ≠ emax F := by
  unfold isFinite
  simp

/-- The real number of a pattern, class by class (R53). -/
theorem realOf_eq (F : FormatDesc) (x : Nat) :
    realOf F x = match classOf F x with
      | .zero => some 0
      | .subnormal =>
        some ((-1) ^ (signOf F x).toNat * (manOf F x : ℚ) * 2 ^ (1 - (F.bias : Int) - F.M))
      | .normal =>
        some ((-1) ^ (signOf F x).toNat * (2 ^ F.M + manOf F x : ℚ)
          * 2 ^ ((expOf F x : Int) - F.bias - F.M))
      | .infinity => none
      | .nan => none := by
  unfold realOf valOf
  cases classOf F x <;> rfl

/-- The patterns with a real number are the finite ones (R53). -/
theorem realOf_isSome (F : FormatDesc) (x : Nat) (hF : 0 < emax F) :
    (realOf F x).isSome = isFinite F x := by
  rw [realOf_eq]
  unfold classOf isFinite
  split_ifs <;> simp_all
  all_goals omega

theorem realOf_of_isZero (F : FormatDesc) (x : Nat) (h : isZero F x = true) :
    realOf F x = some 0 := by
  have hc : classOf F x = .zero := by simpa [isZero] using h
  rw [realOf_eq, hc]

/-- The sign of an FP32 pattern is its top bit (R51). -/
theorem sign32_eq_msb (x : Word32) : sign32 x = x.msb := by
  rw [BitVec.msb_eq_getLsbD_last]
  rfl

/-- The sign of a narrow pattern is its top bit (R51). -/
theorem signOf_narrow_eq_msb (f : NarrowFmt) (x : Word16) :
    signOf (narrowDesc f) x.toNat = x.msb := by
  rw [BitVec.msb_eq_getLsbD_last]
  cases f <;> rfl

/-- A NaN pattern is its fields: it fits 32 bits, so nothing is cut off (R106). -/
theorem nanPattern_toNat (c : NanChoice) :
    (nanPattern c).toNat = c.sign.toNat * 2 ^ 31 + 255 * 2 ^ 23 + (c.payload.val + 1) := by
  have hp : c.payload.val + 1 < 2 ^ 23 := by have := c.payload.isLt; omega
  unfold nanPattern
  rw [BitVec.toNat_ofNat, pack_eq_sum fp32 c.sign 255 _ rfl (by decide) hp]
  apply Nat.mod_eq_of_lt
  show c.sign.toNat * 2 ^ 31 + 255 * 2 ^ 23 + (c.payload.val + 1) < 2 ^ 32
  have := Bool.toNat_le c.sign
  omega

end Sys2Proof.Machine
end

