-- ==== Sys2Proof/Laws/Decode.lean ====
section
/-! SUPPORT. The command word and its three fields (R34), and when a command decodes (R39). -/

namespace Sys2Proof

@[simp] theorem cmdOp_packCmd (v : Bool) (fmt op : BitVec 2) : cmdOp (packCmd v fmt op) = op := by
  revert v fmt op
  decide

@[simp] theorem cmdFmt_packCmd (v : Bool) (fmt op : BitVec 2) : cmdFmt (packCmd v fmt op) = fmt := by
  revert v fmt op
  decide

@[simp] theorem cmdOvf_packCmd (v : Bool) (fmt op : BitVec 2) : cmdOvf (packCmd v fmt op) = v := by
  revert v fmt op
  decide

/-- A command is its three fields put together (R34). -/
theorem packCmd_fields (cmd : Cmd) : packCmd (cmdOvf cmd) (cmdFmt cmd) (cmdOp cmd) = cmd := by
  revert cmd
  decide

/-- The decoder answers an instruction exactly on the well-formed commands (R39, R42). -/
theorem decode_ok_of_wellFormed (cmd : Cmd) (h : cmdWellFormed cmd = true) :
    ∃ i, decode cmd = .ok i := by
  cases hd : decode cmd with
  | ok i => exact ⟨i, rfl⟩
  | error e =>
    exfalso
    have key : ∀ c : Cmd, cmdWellFormed c = true →
        (match decode c with | .ok _ => true | .error _ => false) = true := by decide
    have := key cmd h
    rw [hd] at this
    cases this

/-- A command that decodes is well formed (R39, R42). -/
theorem wellFormed_of_decode_ok (cmd : Cmd) (i : Instr) (h : decode cmd = .ok i) :
    cmdWellFormed cmd = true := by
  have key : ∀ c : Cmd, (match decode c with | .ok _ => true | .error _ => false) = true →
      cmdWellFormed c = true := by decide
  apply key
  rw [h]

namespace Machine

@[simp] theorem cmdOf_withCmd (r : Request) (cmd : Cmd) : cmdOf (withCmd r cmd) = cmd :=
  packCmd_fields cmd

@[simp] theorem withCmd_a (r : Request) (cmd : Cmd) : (withCmd r cmd).a = r.a := rfl

@[simp] theorem withCmd_b (r : Request) (cmd : Cmd) : (withCmd r cmd).b = r.b := rfl

@[simp] theorem withCmd_c (r : Request) (cmd : Cmd) : (withCmd r cmd).c = r.c := rfl

end Machine

end Sys2Proof
end

