-- ==== Sys2Proof/Laws/State.lean ====
section
/-! SUPPORT. What each update of the state does to each field, one lemma a field (R13, R25, R152). -/

namespace Sys2Proof.Machine

@[simp] theorem takeEvent_host (s : State) (rest : List HostEvent) :
    (takeEvent s rest).host = rest := rfl

@[simp] theorem takeEvent_req (s : State) (rest : List HostEvent) :
    (takeEvent s rest).req = s.req := rfl

@[simp] theorem takeEvent_accepted (s : State) (rest : List HostEvent) :
    (takeEvent s rest).accepted = s.accepted := rfl

@[simp] theorem takeEvent_pending (s : State) (rest : List HostEvent) :
    (takeEvent s rest).pending = s.pending := rfl

@[simp] theorem takeEvent_delivered (s : State) (rest : List HostEvent) :
    (takeEvent s rest).delivered = s.delivered := rfl

@[simp] theorem takeEvent_rsp (s : State) (rest : List HostEvent) :
    (takeEvent s rest).rsp = .idle := rfl

@[simp] theorem takeEvent_ticks (s : State) (rest : List HostEvent) :
    (takeEvent s rest).ticks = s.ticks + 1 := rfl

@[simp] theorem sampleRequest_host (s : State) (r : Request) (rest : List HostEvent) :
    (sampleRequest s r rest).host = rest := rfl

@[simp] theorem sampleRequest_req (s : State) (r : Request) (rest : List HostEvent) :
    (sampleRequest s r rest).req = r := rfl

@[simp] theorem sampleRequest_accepted (s : State) (r : Request) (rest : List HostEvent) :
    (sampleRequest s r rest).accepted = s.accepted := rfl

@[simp] theorem sampleRequest_pending (s : State) (r : Request) (rest : List HostEvent) :
    (sampleRequest s r rest).pending = s.pending := rfl

@[simp] theorem sampleRequest_delivered (s : State) (r : Request) (rest : List HostEvent) :
    (sampleRequest s r rest).delivered = s.delivered := rfl

@[simp] theorem sampleRequest_rsp (s : State) (r : Request) (rest : List HostEvent) :
    (sampleRequest s r rest).rsp = .idle := rfl

@[simp] theorem sampleRequest_ticks (s : State) (r : Request) (rest : List HostEvent) :
    (sampleRequest s r rest).ticks = s.ticks + 1 := rfl

@[simp] theorem enqueue_host (s : State) (q : Response) :
    (enqueue s q).host = s.host := rfl

@[simp] theorem enqueue_req (s : State) (q : Response) :
    (enqueue s q).req = s.req := rfl

@[simp] theorem enqueue_accepted (s : State) (q : Response) :
    (enqueue s q).accepted = s.accepted ++ [s.req] := rfl

@[simp] theorem enqueue_pending (s : State) (q : Response) :
    (enqueue s q).pending = s.pending ++ [q] := rfl

@[simp] theorem enqueue_delivered (s : State) (q : Response) :
    (enqueue s q).delivered = s.delivered := rfl

@[simp] theorem enqueue_rsp (s : State) (q : Response) :
    (enqueue s q).rsp = s.rsp := rfl

@[simp] theorem enqueue_ticks (s : State) (q : Response) :
    (enqueue s q).ticks = s.ticks := rfl

@[simp] theorem respond_host (s : State) (v : Word32) :
    (respond s v).host = s.host := rfl

@[simp] theorem respond_req (s : State) (v : Word32) :
    (respond s v).req = s.req := rfl

@[simp] theorem respond_accepted (s : State) (v : Word32) :
    (respond s v).accepted = s.accepted ++ [s.req] := rfl

@[simp] theorem respond_pending (s : State) (v : Word32) :
    (respond s v).pending = s.pending ++ [.ok v] := rfl

@[simp] theorem respond_delivered (s : State) (v : Word32) :
    (respond s v).delivered = s.delivered := rfl

@[simp] theorem respond_rsp (s : State) (v : Word32) :
    (respond s v).rsp = s.rsp := rfl

@[simp] theorem respond_ticks (s : State) (v : Word32) :
    (respond s v).ticks = s.ticks := rfl

@[simp] theorem takeIllegalCommand_host (s : State) :
    (takeIllegalCommand s).host = s.host := rfl

@[simp] theorem takeIllegalCommand_req (s : State) :
    (takeIllegalCommand s).req = s.req := rfl

@[simp] theorem takeIllegalCommand_accepted (s : State) :
    (takeIllegalCommand s).accepted = s.accepted ++ [s.req] := rfl

@[simp] theorem takeIllegalCommand_pending (s : State) :
    (takeIllegalCommand s).pending = s.pending ++ [.illegalCommand] := rfl

@[simp] theorem takeIllegalCommand_delivered (s : State) :
    (takeIllegalCommand s).delivered = s.delivered := rfl

@[simp] theorem takeIllegalCommand_rsp (s : State) :
    (takeIllegalCommand s).rsp = s.rsp := rfl

@[simp] theorem takeIllegalCommand_ticks (s : State) :
    (takeIllegalCommand s).ticks = s.ticks := rfl

@[simp] theorem resetBlock_host (s : State) :
    (resetBlock s).host = s.host := rfl

@[simp] theorem resetBlock_req (s : State) :
    (resetBlock s).req = s.req := rfl

@[simp] theorem resetBlock_accepted (s : State) :
    (resetBlock s).accepted = s.accepted.take s.delivered.length := rfl

@[simp] theorem resetBlock_pending (s : State) :
    (resetBlock s).pending = [] := rfl

@[simp] theorem resetBlock_delivered (s : State) :
    (resetBlock s).delivered = s.delivered := rfl

@[simp] theorem resetBlock_rsp (s : State) :
    (resetBlock s).rsp = .afterReset := rfl

@[simp] theorem resetBlock_ticks (s : State) :
    (resetBlock s).ticks = s.ticks := rfl

end Sys2Proof.Machine
end

