-- ==== Sys2Proof/Laws/Ops.lean ====
section
/-! SUPPORT. The operations on the state, each said once: what it can do and what it leaves alone. -/

namespace Sys2Proof.Machine

/-- An answered request takes its turn and nothing else changes (R25). -/
theorem respond_eq (s : State) (v : Word32) :
    respond s v = { s with accepted := s.accepted ++ [s.req], pending := s.pending ++ [.ok v] } := rfl

/-- The fault of R142 takes its turn and nothing else changes. -/
theorem takeIllegalCommand_eq (s : State) :
    takeIllegalCommand s =
      { s with accepted := s.accepted ++ [s.req], pending := s.pending ++ [.illegalCommand] } := rfl

/-- With nothing pending there is nothing to deliver. -/
@[simp] theorem deliverOldest_nil (s : State) (h : s.pending = []) : deliverOldest s = s := by
  unfold deliverOldest
  rw [h]

/-- The oldest pending response is the one delivered (R25, R33). -/
@[simp] theorem deliverOldest_cons (s : State) (q : Response) (later : List Response)
    (h : s.pending = q :: later) :
    deliverOldest s =
      { s with pending := later, delivered := s.delivered ++ [q], rsp := .response q } := by
  unfold deliverOldest
  rw [h]

/-- Delivery moves a response from one list to the other; the order of all of them stays (R25). -/
theorem deliverOldest_order (s : State) :
    (deliverOldest s).delivered ++ (deliverOldest s).pending = s.delivered ++ s.pending := by
  cases h : s.pending with
  | nil => simp [h]
  | cons q later => simp [deliverOldest_cons s q later h]

/-- Delivery leaves the host's events, the request ports and the accepted requests alone. -/
theorem deliverOldest_frame (s : State) :
    (deliverOldest s).host = s.host ∧ (deliverOldest s).req = s.req ∧
      (deliverOldest s).accepted = s.accepted ∧ (deliverOldest s).ticks = s.ticks := by
  cases h : s.pending with
  | nil => simp [deliverOldest_nil s h]
  | cons q later => simp [deliverOldest_cons s q later h]

end Sys2Proof.Machine
end

