-- ==== Sys2Proof/Laws/PerInstr.lean ====
section
/-! SUPPORT. The opcode table, row by row (R39): every instruction is well formed, its command word
passes the checks of R36, and under the mask `0x0F` it is the `match` of its row. -/

namespace Sys2Proof.Laws.TableRow

def Statement (i : Instr) : Prop :=
  i.wellFormed = true ∧ cmdWellFormed (encode i) = true ∧ (encode i).toNat % 16 = tableMatch i ∧
    cmdOvf (encode i) = i.bit4

theorem fmaFp32 (v : Bool) : Statement (.fmaFp32 v) := by
  unfold Statement; cases v <;> decide

theorem fmaFp16 (ovfEn : Bool) : Statement (.fmaFp16 ovfEn) := by
  unfold Statement; cases ovfEn <;> decide

theorem fmaBf16 (ovfEn : Bool) : Statement (.fmaBf16 ovfEn) := by
  unfold Statement; cases ovfEn <;> decide

theorem widenFp16 (v : Bool) : Statement (.widenFp16 v) := by
  unfold Statement; cases v <;> decide

theorem widenBf16 (v : Bool) : Statement (.widenBf16 v) := by
  unfold Statement; cases v <;> decide

theorem narrowFp16 (v : Bool) : Statement (.narrowFp16 v) := by
  unfold Statement; cases v <;> decide

theorem narrowBf16 (v : Bool) : Statement (.narrowBf16 v) := by
  unfold Statement; cases v <;> decide

end Sys2Proof.Laws.TableRow
end

