-- ==== Sys2Proof/Laws/Rounder.lean ====
section
/-! SUPPORT. The rounder (R71) said once, in terms of quotient and remainder. -/

namespace Sys2Proof.Machine

/-- Below half it truncates, above half it goes up, at half it goes to the even neighbour (R72). -/
theorem rneShift_cases (v n : Nat) (hn : 0 < n) :
    rneShift v n =
      if 2 * (v % 2 ^ n) < 2 ^ n then v / 2 ^ n
      else if 2 ^ n < 2 * (v % 2 ^ n) then v / 2 ^ n + 1
      else v / 2 ^ n + v / 2 ^ n % 2 := by
  obtain ⟨k, rfl⟩ : ∃ k, n = k + 1 := ⟨n - 1, by omega⟩
  have hp : 0 < 2 ^ k := Nat.two_pow_pos k
  have hpow : 2 ^ (k + 1) = 2 * 2 ^ k := by rw [Nat.pow_succ]; ring
  have hmod : v % 2 ^ (k + 1) = v % 2 ^ k + 2 ^ k * (v / 2 ^ k % 2) := by
    rw [Nat.pow_succ, Nat.mod_mul]
  have hl : v % 2 ^ k < 2 ^ k := Nat.mod_lt _ hp
  have hg : v / 2 ^ k % 2 = 0 ∨ v / 2 ^ k % 2 = 1 := Nat.mod_two_eq_zero_or_one _
  have hround : rneRound v (k + 1) = v / 2 ^ k % 2 := by
    unfold rneRound
    rw [Nat.add_sub_cancel, Nat.shiftRight_eq_div_pow, Nat.and_one_is_mod]
  have hsticky : rneSticky v (k + 1) = if v % 2 ^ k ≠ 0 then 1 else 0 := rfl
  have hkept : rneKept v (k + 1) = v / 2 ^ (k + 1) := Nat.shiftRight_eq_div_pow _ _
  unfold rneShift
  rw [if_neg (by omega), hround, hsticky, hkept, Nat.and_one_is_mod, hmod, hpow]
  generalize v / (2 * 2 ^ k) = q
  generalize v / 2 ^ k % 2 = g at *
  generalize v % 2 ^ k = l at *
  generalize 2 ^ k = p at *
  rcases Nat.mod_two_eq_zero_or_one q with hq | hq <;>
    obtain rfl | rfl : g = 0 ∨ g = 1 := hg <;>
    by_cases hs : l = 0 <;>
    simp only [hq, hs, rneInc] <;>
    split_ifs <;> simp <;> omega

/-- The rounded value is at most one above the quotient (R73). -/
theorem rneShift_bounds (v n : Nat) : v / 2 ^ n ≤ rneShift v n ∧ rneShift v n ≤ v / 2 ^ n + 1 := by
  rcases Nat.eq_zero_or_pos n with rfl | hn
  · simp [rneShift]
  · rw [rneShift_cases v n hn]
    split_ifs <;> omega

end Sys2Proof.Machine
end

