-- ==== Sys2Proof/Laws/Step.lean ====
section
/-! SUPPORT. What a step can do, said once: the inversion lemmas that every claim about runs cites. -/

namespace Sys2Proof.Machine

/-- Every meaning answers the request on the ports with the result of its operation (R39). -/
theorem exec_eq_respond (i : Instr) (s : State) :
    exec i s = .next (respond s (resultOf Config.nan i s.req)) := by
  cases i <;> rfl

/-- The cases of a step that goes on: idle, a delivery, a reset, or an accepted legal request. -/
theorem step_next_cases (s t : State) (h : step s = .next t) :
    (s.host = [] ∧ t = takeEvent s []) ∨
    (∃ rest, s.host = .deliver :: rest ∧ t = deliverOldest (takeEvent s rest)) ∨
    (∃ rest, s.host = .reset :: rest ∧ t = resetBlock (takeEvent s rest)) ∨
    (∃ r rest i, s.host = .request r :: rest ∧ decode (cmdOf r) = .ok i ∧
      t = respond (sampleRequest s r rest) (resultOf Config.nan i r)) := by
  unfold step at h
  split at h
  · next hh => exact .inl ⟨hh, by cases h; rfl⟩
  · next rest hh => exact .inr (.inl ⟨rest, hh, by cases h; rfl⟩)
  · next rest hh => exact .inr (.inr (.inl ⟨rest, hh, by cases h; rfl⟩))
  · next r rest hh =>
    split at h
    · next i hd =>
      rw [exec_eq_respond] at h
      exact .inr (.inr (.inr ⟨r, rest, i, hh, hd, by cases h; rfl⟩))
    · cases h

/-- The only other outcome of a step: the fault of a reserved command (R142). -/
theorem step_fault_cases (s : State) (f : Fault) (h : step s = .fault f) :
    ∃ r rest e, s.host = .request r :: rest ∧ decode (cmdOf r) = .error e ∧
      f = .illegalCommand (cmdOf r) := by
  unfold step at h
  split at h
  · cases h
  · cases h
  · cases h
  · next r rest hh =>
    split at h
    · rw [exec_eq_respond] at h
      cases h
    · next e hd => exact ⟨r, rest, e, hh, hd, by cases h; rfl⟩

/-- Past its fault or not, an accepted request is sampled and its answer takes its turn (R25, R142). -/
theorem proceed_request (s : State) (r : Request) (rest : List HostEvent)
    (h : s.host = .request r :: rest) :
    proceed s = enqueue (sampleRequest s r rest) (answer Config.nan r) := by
  cases hd : decode (cmdOf r) with
  | ok i =>
    have hs : step s = .next (respond (sampleRequest s r rest) (resultOf Config.nan i r)) := by
      simp only [step, h, hd, exec_eq_respond, sampleRequest_req]
    simp only [proceed, hs, answer, hd, respond]
  | error e =>
    have hs : step s = .fault (.illegalCommand (cmdOf r)) := by simp only [step, h, hd]
    simp only [proceed, hs, h, answer, hd, takeIllegalCommand]

/-- A delivery among the events (R33). -/
theorem proceed_deliver (s : State) (rest : List HostEvent) (h : s.host = .deliver :: rest) :
    proceed s = deliverOldest (takeEvent s rest) := by
  simp only [proceed, step, h]

/-- A reset among the events (R150). -/
theorem proceed_reset (s : State) (rest : List HostEvent) (h : s.host = .reset :: rest) :
    proceed s = resetBlock (takeEvent s rest) := by
  simp only [proceed, step, h]

/-- No event left: the block is idle (R157). -/
theorem proceed_idle (s : State) (h : s.host = []) : proceed s = takeEvent s [] := by
  simp only [proceed, step, h]

end Sys2Proof.Machine
end

