-- ==== Sys2Proof/Tests/Slice0.lean ====
section
/-! SUPPORT. Tests. Expected results are the spec's own vectors (`spec/95_test_vectors.md`, named in
each comment) or words written out from the tables of `spec/30_encoding.md`. The second half shows,
for every statement of `Obligations.lean` that has hypotheses, values that meet them. -/

namespace Sys2Proof.Tests

open Sys2Proof Sys2Proof.Machine Sys2Proof.Safety

/-- The block after reset with one request presented. -/
def present (ovfEn : Bool) (fmt op : BitVec 2) (a b c : Word32) : State :=
  { State.reset with host := [.request ⟨ovfEn, fmt, op, a, b, c⟩] }

/-- The responses pending after one step; none where the step stops. -/
def answered (s : State) : Option (List Response) :=
  match step s with
  | .next t => some t.pending
  | .fault _ => none
  | .refused _ => none

/-! ### WellFormed: each check refuses an ill-formed term -/

theorem test_reserved_op_is_ill_formed : cmdOpLegal 0b00011#5 = false := by decide
theorem test_reserved_fmt_is_ill_formed : cmdFmtLegal 0b01100#5 = false := by decide
theorem test_widen_fp32_is_ill_formed : cmdFp32Legal 0b00001#5 = false := by decide
theorem test_narrow_fp32_is_ill_formed : opFmtLegal .narrow .fp32 = false := by decide
theorem test_the_checks_refuse_the_command :
    cmdWellFormed 0b00011#5 = false ∧ cmdWellFormed 0b01100#5 = false ∧
      cmdWellFormed 0b00001#5 = false ∧ cmdWellFormed 0b10010#5 = false := by decide
theorem test_fourteen_commands_are_legal :
    ((List.range 32).filter fun w => cmdWellFormed (BitVec.ofNat 5 w)).length = 14 := by decide

/-! ### Decode: words written out from R34 and R39 -/

theorem test_decode_fmaFp32 : decode 0b00000#5 = .ok (.fmaFp32 false) := by decide
theorem test_decode_fmaFp16_ovf : decode 0b10100#5 = .ok (.fmaFp16 true) := by decide
theorem test_decode_fmaBf16 : decode 0b01000#5 = .ok (.fmaBf16 false) := by decide
theorem test_decode_widenFp16 : decode 0b00101#5 = .ok (.widenFp16 false) := by decide
theorem test_decode_widenBf16_bit4 : decode 0b11001#5 = .ok (.widenBf16 true) := by decide
theorem test_decode_narrowFp16 : decode 0b00110#5 = .ok (.narrowFp16 false) := by decide
theorem test_decode_narrowBf16 : decode 0b01010#5 = .ok (.narrowBf16 false) := by decide
theorem test_decode_reserved_op : decode 0b01111#5 = .error (.reservedOp 0b01111#5) := by decide
theorem test_decode_reserved_fmt : decode 0b11101#5 = .error (.reservedFmt 0b11101#5) := by decide
theorem test_decode_widen_fp32 : decode 0b10001#5 = .error (.fp32NotNarrow 0b10001#5) := by decide
theorem test_table_word_above_the_port : decodeTableWord 8 0x24 = none := by decide
theorem test_assembler_name : asmName .fmaFp16Ovf = "FMA.FP16.OVF" := by decide

/-! ### One step of each operation -/

/-- V-FMA32-12 with `CMD = 0x10` (V-FMA32-30): not fused, and the bit is ignored. -/
theorem test_fmaFp32_product_overflows_first :
    answered (present true 0#2 0#2 0x7F7FFFFF#32 0x40000000#32 0xFF7FFFFF#32)
      = some [.ok 0x7F800000#32] := by decide +kernel

/-- V-FMA32-11. -/
theorem test_fmaFp32_two_roundings :
    answered (present false 0#2 0#2 0x40490FDB#32 0x402DF854#32 0x3FB504F3#32)
      = some [.ok 0x411F435E#32] := by decide +kernel

/-- V-FMA16-33, policy on: the product's infinity is tested before that of `c`. -/
theorem test_fmaFp16_policy_order :
    answered (present true 1#2 0#2 0x0000FBFF#32 0x00004000#32 0x00007C00#32)
      = some [.ok 0x0000FC00#32] := by decide +kernel

/-- V-IGN-2: the upper halves of the ports are ignored. -/
theorem test_fmaFp16_ignores_upper_halves :
    answered (present false 1#2 0#2 0xFFFF3C00#32 0x12344000#32 0x80004000#32)
      = some [.ok 0x00004400#32] := by decide +kernel

/-- V-FMAB-5, policy off. -/
theorem test_fmaBf16_policy_off :
    answered (present false 2#2 0#2 0x00005F35#32 0x00005FB5#32 0x0000FF7F#32)
      = some [.ok 0x00007B72#32] := by decide +kernel

/-- V-FMAB-10: a subnormal `c` counts exactly. -/
theorem test_fmaBf16_subnormal_addend :
    answered (present true 2#2 0#2 0x00000080#32 0x00003F80#32 0x00000001#32)
      = some [.ok 0x00000081#32] := by decide +kernel

/-- V-IGN-1. -/
theorem test_widenFp16_nan_payload :
    answered (present false 1#2 1#2 0xABCD7C01#32 0xDEADBEEF#32 0x12345678#32)
      = some [.ok 0x7F802000#32] := by decide +kernel

/-- V-W16-8. -/
theorem test_widenFp16_largest_subnormal :
    answered (present true 1#2 1#2 0x000083FF#32 0#32 0#32) = some [.ok 0xB87FC000#32] := by
  decide +kernel

/-- V-WB-3 (conflict C2). -/
theorem test_widenBf16_subnormal :
    answered (present false 2#2 1#2 0x00000001#32 0#32 0#32) = some [.ok 0x00010000#32] := by
  decide +kernel

/-- V-N16-44: zero, where IEEE rounding would not give it (R91). -/
theorem test_narrowFp16_below_smallest_subnormal :
    answered (present false 1#2 2#2 0x337FFFFF#32 0#32 0#32) = some [.ok 0#32] := by decide +kernel

/-- V-N16-28. -/
theorem test_narrowFp16_carry_to_infinity :
    answered (present true 1#2 2#2 0xC77FF000#32 0#32 0#32) = some [.ok 0x0000FC00#32] := by
  decide +kernel

/-- V-IGN-3. -/
theorem test_narrowBf16_above_the_tie :
    answered (present false 2#2 2#2 0x3F808001#32 0xFFFFFFFF#32 0xFFFFFFFF#32)
      = some [.ok 0x00003F81#32] := by decide +kernel

/-- V-NB-14: the forced mantissa bit. -/
theorem test_narrowBf16_nan_forced_bit :
    answered (present false 2#2 2#2 0x7F80FFFF#32 0#32 0#32) = some [.ok 0x00007F81#32] := by
  decide +kernel

/-- P3, request 6 (`op = 11`): the step faults, and the block answers `rsp_err = 1` in its turn. -/
theorem test_reserved_command_faults :
    answered (present false 0#2 3#2 0x3F800000#32 0#32 0#32) = none ∧
      (proceed (present false 0#2 3#2 0x3F800000#32 0#32 0#32)).pending = [.illegalCommand] := by
  decide

/-- V-RND-11 and V-RND-21: a carry out, and a shift by the whole width. -/
theorem test_rounder : rneShift 0x7FF000 13 = 0x400 ∧ rneShift 0xFFFFFF 24 = 1 := by decide

/-- V-FMA16-9, policy off, under REF_NAN: a NaN of FP16. -/
theorem test_refNan_vector : fmaNarrow refNan .fp16 false 0x7C00#16 0x4000#16 0xFC00#16 = 0x7E00#16 := by
  decide +kernel

/-- V-CMP-7 and V-CMP-9. -/
theorem test_compare_ulp :
    compareBits (defaultTolerances 0 0) .fp16 .ulp 0#32 0#32 0#32 0x0000#32 0x8000#32
      = ⟨false, .ulpDistance 32768⟩ ∧
    compareBits (defaultTolerances 0 0) .fp16 .ulp 0#32 0#32 0#32 0x7BFF#32 0x7C00#32
      = ⟨true, .ulpDistance 1⟩ := by decide +kernel

/-- V-CMP-20: the operands of V-FMA32-1. -/
theorem test_compare_relative_error :
    compareBits (defaultTolerances 1 1) .fp32 .relativeError 0xC0A00000#32 0xC0E00000#32 0xC595A800#32
      0xC594A800#32 0xC5949000#32 = ⟨false, .relError (3 / 4789)⟩ := by decide +kernel

/-- The classes of R53 that are no non-zero real, by the patterns of R54. -/
theorem test_signed_zeros_and_infinities :
    valOf fp16 0x8000 = some (.zero true) ∧ valOf fp32 0x00000000 = some (.zero false) ∧
    valOf bf16 0xFF80 = some (.infinity true) ∧ valOf fp32 0x7F800000 = some (.infinity false) ∧
    valOf fp16 0x7C01 = none := by decide +kernel

/-- Landmarks of R54 and the literals of R53. -/
theorem test_landmark_values :
    realOf fp16 0x7BFF = some 65504 ∧ realOf fp16 0x0001 = some (1 / 2 ^ 24) ∧
    realOf fp32 0xC595A800 = some (-4789) ∧ realOf fp32 0xC595C000 = some (-4792) ∧
    realOf bf16 0x0001 = some (1 / 2 ^ 133) ∧ classOf fp32 0x7F800001 = .nan := by decide +kernel

/-! ### Every statement's hypotheses are met somewhere -/

/-- A request for the witnesses: FMA.FP16 with the policy on. -/
def req0 : Request := ⟨true, 1#2, 0#2, 0x00003C00#32, 0x00004000#32, 0x00004200#32⟩

theorem test_witness_DecodeAndEncodeAgree : decode 0b11010#5 = .ok (.narrowBf16 true) := by decide

theorem test_witness_StepRunsTheDecodedRequest :
    { State.reset with host := [.request req0] }.host = .request req0 :: [] ∧
      decode (cmdOf req0) = .ok (.fmaFp16 true) := by decide

theorem test_witness_FetchWordIsRunNext : decodeTableWord 8 0x0A = some (.narrowBf16 false) := by decide

theorem test_witness_ReservedCommandFaultsInItsTurn :
    (present false 0#2 3#2 1#32 2#32 3#32).host = [.request ⟨false, 0#2, 3#2, 1#32, 2#32, 3#32⟩] ∧
    (present true 3#2 0#2 1#32 2#32 3#32).host = [.request ⟨true, 3#2, 0#2, 1#32, 2#32, 3#32⟩] ∧
    (present true 0#2 1#2 1#32 2#32 3#32).host = [.request ⟨true, 0#2, 1#2, 1#32, 2#32, 3#32⟩] ∧
    (present true 0#2 2#2 1#32 2#32 3#32).host = [.request ⟨true, 0#2, 2#2, 1#32, 2#32, 3#32⟩] := by
  decide

theorem test_witness_OldestResponseIsDelivered :
    { State.reset with host := [.deliver], pending := [.illegalCommand, .ok 1#32] }.pending
        = .illegalCommand :: [.ok 1#32] ∧
      { State.reset with host := [.deliver], pending := [.ok 7#32] }.pending = .ok 7#32 :: [] := by decide

theorem test_witness_OnlyReservedCommandsStop :
    (present false 3#2 1#2 0#32 0#32 0#32).host = [.request ⟨false, 3#2, 1#2, 0#32, 0#32, 0#32⟩] ∧
      legalRequest ⟨false, 3#2, 1#2, 0#32, 0#32, 0#32⟩ = false := by decide

theorem test_witness_LegalHostNeverFaults :
    LegalHost { State.reset with host := [.request req0, .deliver, .reset, .request req0] } := by
  intro r hr
  simp only [requestsOf, List.mem_cons, List.not_mem_nil, or_false, or_self] at hr
  subst hr
  decide

theorem test_witness_ResponseIsAFunctionOfItsRequest :
    { State.reset with req := req0, pending := [.ok 1#32], ticks := 5 }.req
      = { State.reset with req := req0 }.req := rfl

/-- Two requests that differ in the ignored ports, for each of the four conditions. -/
theorem test_witness_IgnoredPortsDoNotMatter :
    (⟨true, 0#2, 0#2, 1#32, 2#32, 3#32⟩ : Request) ≠ ⟨false, 0#2, 0#2, 1#32, 2#32, 3#32⟩ ∧
    (0xFFFF3C00#32).extractLsb' 0 16 = (0x12343C00#32).extractLsb' 0 16 ∧
    (⟨true, 1#2, 1#2, 0xFFFF3C00#32, 0#32, 3#32⟩ : Request)
      ≠ ⟨false, 1#2, 1#2, 0x12343C00#32, 9#32, 4#32⟩ ∧
    (⟨true, 1#2, 2#2, 1#32, 0#32, 3#32⟩ : Request) ≠ ⟨false, 1#2, 2#2, 1#32, 9#32, 4#32⟩ := by decide

theorem test_witness_ResetDropsWhatIsInFlight :
    { State.reset with host := [.reset], accepted := [req0], pending := [.ok 1#32] }.host
      = .reset :: [] := rfl

theorem test_witness_IdleBlockGoesOn : State.reset.host = [] := rfl

theorem test_witness_AnswersStayInOrder :
    AnswersInOrder { State.reset with
      host := [.request req0], accepted := [req0], pending := [answer Config.nan req0] } := rfl

theorem test_witness_EveryRequestIsAnsweredInOrder :
    ∀ e ∈ (present false 0#2 3#2 1#32 2#32 3#32).host ++ [.deliver, .request req0], e ≠ .reset := by
  decide

theorem test_witness_RunEndsWithEveryRequestAnswered :
    { State.reset with host := [.request req0, .deliver, .deliver], pending := [.ok 1#32] }.host
        = [req0].map .request ++ List.replicate 2 .deliver ∧
      [Response.ok 1#32].length + [req0].length ≤ 2 := by decide

/-- Edges for the three clauses of the clocked statement, latency 1: a reset edge, an answered request,
a request that a reset drops. -/
def edges0 : List Edge := [⟨true, false, req0⟩, ⟨false, true, req0⟩, ⟨false, true, req0⟩,
  ⟨true, true, req0⟩, ⟨false, false, req0⟩]

theorem test_witness_RequestsAreAnsweredAfterLatEdges :
    edges0[0]? = some ⟨true, false, req0⟩ ∧
    (edges0[2]? = some ⟨false, true, req0⟩ ∧ edges0[1]? = some ⟨false, true, req0⟩ ∧
      accepts ⟨false, true, req0⟩ = true ∧
      (clockRun refNan 1 clockedReset edges0)[2]? = some (.response (.ok 0x00004500#32))) ∧
    (edges0[4]? = some ⟨false, false, req0⟩ ∧ accepts ⟨true, true, req0⟩ = false ∧
      (clockRun refNan 1 clockedReset edges0)[4]? = some .idle) := by decide +kernel

/-- Latency 3, a request accepted at edge 1 and a reset at edge 3: at edge 4 nothing is due. -/
theorem test_witness_RequestsAreAnsweredAfterLatEdges_dropped :
    accepts ⟨false, true, req0⟩ = true ∧ edges0[3]? = some ⟨true, true, req0⟩ ∧
      (clockRun refNan 3 clockedReset edges0)[4]? = some .idle := by decide +kernel

theorem test_witness_FmaFp16Completes :
    (0x3F800000#32) = widenFp16 (req0.a.extractLsb' 0 16) ∧
    (0x40000000#32) = widenFp16 (req0.b.extractLsb' 0 16) ∧
    (0x40400000#32) = widenFp16 (req0.c.extractLsb' 0 16) ∧
    (0x40000000#32) = mul32 refNan 0x3F800000#32 0x40000000#32 ∧
    (0x4000#16) = narrowFp16 0x40000000#32 ∧ (0x4200#16) = narrowFp16 0x40400000#32 := by
  decide +kernel

theorem test_witness_FmaBf16Completes :
    (0x3C000000#32) = (req0.a.extractLsb' 0 16).zeroExtend 32 <<< 16 ∧
    (0x40000000#32) = (req0.b.extractLsb' 0 16).zeroExtend 32 <<< 16 ∧
    (0x42000000#32) = (req0.c.extractLsb' 0 16).zeroExtend 32 <<< 16 ∧
    (0x3C800000#32) = mul32 refNan 0x3C000000#32 0x40000000#32 ∧
    (0x3C80#16) = narrowBf16 0x3C800000#32 ∧ (0x4200#16) = narrowBf16 0x42000000#32 := by
  decide +kernel

/-- An operand for each branch of the reduced form: subnormal, infinity, the two NaNs, normal. -/
theorem test_witness_NarrowBf16Completes :
    (0x807F0000 : Nat) / 2 ^ 23 % 2 ^ 8 = 0 ∧ (0xFF800000 : Nat) % 2 ^ 31 = 0x7F800000 ∧
    (0x7F800000 < (0x7F810000 : Nat) % 2 ^ 31 ∧ (0x7F810000 : Nat) / 2 ^ 16 % 2 ^ 7 ≠ 0) ∧
    (0x7F800000 < (0x7F800001 : Nat) % 2 ^ 31 ∧ (0x7F800001 : Nat) / 2 ^ 16 % 2 ^ 7 = 0) ∧
    ((0xC595C000 : Nat) / 2 ^ 23 % 2 ^ 8 ≠ 0 ∧ (0xC595C000 : Nat) % 2 ^ 31 < 0x7F800000) := by decide

theorem test_witness_PatternIsItsFields : 0xFFFFFFFF < 2 ^ (descOf .fp32).W ∧ 0x8001 < 2 ^ (descOf .bf16).W := by
  decide

theorem test_witness_ValueIsAWholeNumberOfUnits :
    (isFinite (descOf .fp32) 0x7F7FFFFF = true ∧ isFinite (descOf .fp16) 0x8001 = true ∧
      isFinite (descOf .bf16) 0 = true) ∧
    isZero (descOf .bf16) 0x8000 = true ∧ isInf (descOf .fp32) 0xFF800000 = true ∧
    isNan (descOf .fp16) 0x7C01 = true := by decide

/-- At the border of the subnormals, and at the top. -/
theorem test_witness_NextPatternIsOneUlpAway :
    (0x03FF + 1 < 2 ^ (descOf .fp16).W ∧
      signOf (descOf .fp16) 0x03FF = signOf (descOf .fp16) (0x03FF + 1) ∧
      realOf (descOf .fp16) 0x03FF = some (1023 / 2 ^ 24) ∧
      realOf (descOf .fp16) (0x03FF + 1) = some (1 / 2 ^ 14)) ∧
    (0xFBFE + 1 < 2 ^ (descOf .fp16).W ∧
      signOf (descOf .fp16) 0xFBFE = signOf (descOf .fp16) (0xFBFE + 1) ∧
      realOf (descOf .fp16) 0xFBFE = some (-65472) ∧
      realOf (descOf .fp16) (0xFBFE + 1) = some (-65504)) := by decide +kernel

theorem test_witness_WidenedNanKeepsItsPayload :
    isNan (narrowDesc .fp16) (0x7C01#16).toNat = true ∧
      isNan (narrowDesc .bf16) (0xFFFF#16).toNat = true := by decide

theorem test_witness_GenericBf16WideningIsTheShift :
    classOf bf16 (0x0080#16).toNat ≠ .subnormal ∧ classOf bf16 (0x7F81#16).toNat ≠ .subnormal := by decide

theorem test_witness_RounderAtTheFieldBoundary : 0x800001 < 2 ^ 24 ∧ 0 < 24 ∧ 24 < 25 := by decide

theorem test_witness_RounderCarriesOut : 0x7FF000 < 2 ^ 23 ∧ 0 < 13 ∧ 13 ≤ 23 := by decide

theorem test_witness_NarrowSpecialClasses :
    expOf fp32 (0x807FFFFF#32).toNat = 0 ∧
    (expOf fp32 (0x7F800000#32).toNat = 255 ∧ manOf fp32 (0x7F800000#32).toNat = 0) ∧
    (expOf fp32 (0xFF801FFF#32).toNat = 255 ∧ manOf fp32 (0xFF801FFF#32).toNat ≠ 0) := by decide

/-- The two ends of the normal range and the first overflow: `e = 1`, `e = 30`, `e = 31` for FP16. -/
theorem test_witness_NarrowNormalRange :
    (expOf fp32 (0x38800000#32).toNat = 113 ∧ (1 : Int) = 113 - 127 + fp16.bias) ∧
    (expOf fp32 (0x477FF000#32).toNat = 142 ∧ (30 : Int) = 142 - 127 + fp16.bias ∧
      (30 : Int) < emax fp16) ∧
    (expOf fp32 (0x47800000#32).toNat = 143 ∧ (31 : Int) = 143 - 127 + fp16.bias ∧
      (emax fp16 : Int) ≤ 31) := by decide

/-- `e = 0`, and the last shift that is no zero (`sh = 10`) beside the first that is (`sh = 11`). -/
theorem test_witness_NarrowUnderflow :
    (expOf fp32 (0x387FE000#32).toNat = 112 ∧ (0 : Int) = 112 - 127 + fp16.bias) ∧
    (expOf fp32 (0x33800000#32).toNat = 103 ∧ (-9 : Int) = 103 - 127 + fp16.bias ∧
      1 - (-9 : Int) ≤ fp16.M) ∧
    (expOf fp32 (0x337FFFFF#32).toNat = 102 ∧ (-10 : Int) = 102 - 127 + fp16.bias ∧
      (fp16.M : Int) < 1 - (-10 : Int)) := by decide

theorem test_witness_NarrowBf16RoundsTheMagnitude :
    1 ≤ expOf fp32 (0xFF7F8000#32).toNat ∧ expOf fp32 (0xFF7F8000#32).toNat ≤ 254 := by decide

theorem test_witness_NarrowGivesNanOnlyForNan : isNan fp32 (0x7F800001#32).toNat = true := by decide

theorem test_witness_NarrowIsMonotone :
    (0x477FEFFF#32).msb = (0x477FF000#32).msb ∧
    expOf fp32 (0x477FEFFF#32).toNat = expOf fp32 (0x477FF000#32).toNat ∧
    1 ≤ expOf fp32 (0x477FEFFF#32).toNat ∧ expOf fp32 (0x477FEFFF#32).toNat ≤ 254 ∧
    manOf fp32 (0x477FEFFF#32).toNat ≤ manOf fp32 (0x477FF000#32).toNat := by decide

theorem test_witness_RoundTrip :
    classOf bf16 (0xFFC0#16).toNat ≠ .subnormal ∧ classOf bf16 (0x807F#16).toNat = .subnormal := by decide

/-- Just outside and just inside the two regions. -/
theorem test_witness_NarrowIsNearestEvenButInTwoRegions :
    (isFinite fp32 (0x33000000#32).toNat = true ∧ (0x33000000#32).toNat % 2 ^ 31 < 0x33000001) ∧
    (isFinite fp32 (0xB37FFFFF#32).toNat = true ∧ 0x33000001 ≤ (0xB37FFFFF#32).toNat % 2 ^ 31 ∧
      (0xB37FFFFF#32).toNat % 2 ^ 31 ≤ 0x337FFFFF) ∧
    (isFinite fp32 (0x00008001#32).toNat = true ∧ 0x00008001 ≤ (0x00008001#32).toNat % 2 ^ 31 ∧
      (0x00008001#32).toNat % 2 ^ 31 ≤ 0x007FFFFF) := by decide

theorem test_witness_RoundThirtyTwoIsNearest :
    ((2 ^ 128 - 2 ^ 103 : ℚ) = ((2 ^ 25 - 1 : Nat) : ℚ) * 2 ^ 103 / 2 ^ 0) ∧
    ((3 : Nat) : ℚ) / 2 ^ 150 < 2 ^ 128 - 2 ^ 103 ∧
    realOf fp32 (0x00000001#32).toNat = some (1 / 2 ^ 149) := by
  refine ⟨by norm_num, by norm_num, by decide +kernel⟩

theorem test_witness_MultiplyRoundsTheExactProduct :
    isNan fp32 (0xFF800001#32).toNat = true ∧
    (isInf fp32 (0xFF800000#32).toNat = true ∧ isZero fp32 (0x80000000#32).toNat = true) ∧
    (isNan fp32 (0x00000001#32).toNat = false ∧ isZero fp32 (0x00000001#32).toNat = false ∧
      isNan fp32 (0xFF800000#32).toNat = false ∧ isZero fp32 (0xFF800000#32).toNat = false) ∧
    (realOf fp32 (0x00000001#32).toNat = some (1 / 2 ^ 149) ∧
      realOf fp32 (0xBF000000#32).toNat = some (-1 / 2)) := by decide +kernel

theorem test_witness_AddRoundsTheExactSum :
    (isInf fp32 (0x7F800000#32).toNat = true ∧ isInf fp32 (0xFF800000#32).toNat = true ∧
      (0x7F800000#32).msb ≠ (0xFF800000#32).msb) ∧
    (isInf fp32 (0xFF800000#32).toNat = true ∧ isFinite fp32 (0x7F7FFFFF#32).toNat = true) ∧
    (realOf fp32 (0x3F800000#32).toNat = some 1 ∧ realOf fp32 (0xBF800000#32).toNat = some (-1) ∧
      isZero fp32 (0x3F800000#32).toNat = false) ∧
    (realOf fp32 (0x80000000#32).toNat = some 0 ∧ isZero fp32 (0x80000000#32).toNat = true) := by
  decide +kernel

theorem test_witness_AddCommutesAndKeepsNonZero :
    isNan fp32 (add32 refNan 0x7F7FFFFF#32 0x7F7FFFFF#32).toNat = false ∧
    (realOf fp32 (0x00000002#32).toNat = some (1 / 2 ^ 148) ∧
      realOf fp32 (0x80000001#32).toNat = some (-1 / 2 ^ 149)) ∧
    (isZero fp32 (0x80000000#32).toNat = true ∧ isFinite fp32 (0x80000001#32).toNat = true ∧
      isZero fp32 (0x80000001#32).toNat = false) := by decide +kernel

theorem test_witness_NanParametersRangeOverTheNans :
    isNan fp32 (0xFFFFFFFF#32).toNat = true ∧ isNan fp32 (0x7F800001#32).toNat = true := by decide

/-- V-FMA16-4, V-FMA16-6 and V-FMA16-1: the first test fires, the second fires, neither fires. -/
theorem test_witness_OverflowPolicyTestsTheProductFirst :
    isInf (narrowDesc .fp16)
      (narrow .fp16 (mul32 refNan (widen .fp16 0x5CB0#16) (widen .fp16 0x5CB0#16))).toNat = true ∧
    (isInf (narrowDesc .fp16)
      (narrow .fp16 (mul32 refNan (widen .fp16 0x3C00#16) (widen .fp16 0x3C00#16))).toNat = false ∧
      isInf (narrowDesc .fp16) (narrow .fp16 (widen .fp16 0x7C00#16)).toNat = true) ∧
    isInf (narrowDesc .fp16) (narrow .fp16 (widen .fp16 0x4000#16)).toNat = false := by decide +kernel

theorem test_witness_WhenTheOverflowTestsFire :
    isNan fp32 (0x477FF000#32).toNat = false ∧ isNan fp32 (0x7F7F7FFF#32).toNat = false ∧
      isNan fp32 (0x7F800001#32).toNat = true ∧ isInf (narrowDesc .bf16) (0xFF80#16).toNat = true := by
  decide

theorem test_witness_ProductsAreExactForFp16AndInBf16NormalRange :
    (realOf (narrowDesc .fp16) (0x0001#16).toNat = some (1 / 2 ^ 24) ∧
      realOf (narrowDesc .fp16) (0xFBFF#16).toNat = some (-65504)) ∧
    (realOf (narrowDesc .bf16) (0x0001#16).toNat = some (1 / 2 ^ 133) ∧
      realOf (narrowDesc .bf16) (0x4300#16).toNat = some (2 ^ 7) ∧
      (1 / 2 ^ 126 : ℚ) ≤ |1 / 2 ^ 133 * 2 ^ 7| ∧ |(1 / 2 ^ 133 * 2 ^ 7 : ℚ)| < 2 ^ 128) := by
  refine ⟨by decide +kernel, by decide +kernel, by decide +kernel, ?_, ?_⟩ <;> norm_num

theorem test_witness_ZeroProductsAndTheirSigns :
    isFinite fp32 (0x80000000#32).toNat = true ∧ isFinite fp32 (0x40A00000#32).toNat = true ∧
      isZero fp32 (0x80000000#32).toNat = true ∧ isFinite fp32 (0x00000001#32).toNat = true ∧
      isZero fp32 (0x00000001#32).toNat = false := by decide

theorem test_witness_InfinitiesAndNansOfTheSum :
    (isInf fp32 (0x7F800000#32).toNat = true ∧ isZero fp32 (0x80000000#32).toNat = true) ∧
    isInf fp32 (mul32 refNan 0x7F7FFFFF#32 0x40000000#32).toNat = true ∧
    (isFinite fp32 (0xFF7FFFFF#32).toNat = true ∧ isInf fp32 (0xFF800000#32).toNat = true ∧
      (mul32 refNan 0x7F7FFFFF#32 0x40000000#32).msb ≠ (0xFF800000#32).msb) ∧
    isFinite fp32 (mul32 refNan 0x3F800000#32 0x40000000#32).toNat = true := by decide +kernel

theorem test_witness_RelativeErrorPolicy :
    ((0xABCD4400#32).toNat % 2 ^ (descOf .fp16).W = (0x00004400#32).toNat % 2 ^ (descOf .fp16).W) ∧
    ((0x7FC00001#32).toNat % 2 ^ (descOf .fp32).W ≠ (0x7FC00000#32).toNat % 2 ^ (descOf .fp32).W ∧
      isFinite (descOf .fp32) ((0x7FC00001#32).toNat % 2 ^ (descOf .fp32).W) = false) ∧
    (realOf (descOf .fp32) 0x3F800000 = some 1 ∧ realOf (descOf .fp32) 0x3F800001 = some (8388609 / 8388608)) ∧
    realOf (descOf .fp32) 0 = some 0 := by decide +kernel

end Sys2Proof.Tests
end

section
/-! PROOFS. The traffic on the ports: what the ports show after a reset, the request a step runs, and
the invariant that responses stay in the order of acceptance (R10, R25, R32, R151, R152). -/

namespace Sys2Proof.Machine

open Sys2Proof.Safety

/-! ### The ports after a reset -/

theorem rspValid_of_afterReset {s : State} (h : s.rsp = .afterReset) : rspValid s = false := by
  simp only [rspValid, h]

theorem rspErr_of_afterReset {s : State} (h : s.rsp = .afterReset) : rspErr s = false := by
  simp only [rspErr, h]

/-- Settles O12: the ports of the reset state are those of R151, by definition. -/
theorem resetPortsAndNothingPending : Obligations.ResetPortsAndNothingPending :=
  ⟨rspValid_of_afterReset rfl, rspErr_of_afterReset rfl, rfl⟩

/-! ### The response of a request -/

/-- Settles O10: the result is that of `resultOf`, which reads the request ports only. -/
theorem responseIsAFunctionOfItsRequest : Obligations.ResponseIsAFunctionOfItsRequest := by
  intro i s t hreq
  refine ⟨resultOf Config.nan i s.req, ?_, ?_⟩
  · rw [exec_eq_respond, respond_eq]
  · rw [exec_eq_respond, respond_eq, hreq]

/-! ### The request a step runs -/

/-- An accepted request with a legal command is sampled and run in one step (R32). -/
theorem step_legal_request {s : State} {r : Request} {rest : List HostEvent} {i : Instr}
    (hhost : s.host = .request r :: rest) (hdec : decode (cmdOf r) = .ok i) :
    step s = exec i (sampleRequest s r rest) := by
  simp only [step, hhost, hdec]

/-- A table word is read as the instruction its five command bits decode to (R34, R39). -/
theorem decode_of_decodeTableWord {nbits w : Nat} {i : Instr}
    (h : decodeTableWord nbits w = some i) :
    decode (BitVec.ofNat 5 (w % 2 ^ nbits)) = .ok i := by
  unfold decodeTableWord at h
  split at h
  · split at h
    · next hdec =>
      cases h
      exact hdec
    · cases h
  · cases h

/-- Settles O5: the request that `withFetchWord` puts in front carries the word's command and the
operands on the ports. -/
theorem fetchWordIsRunNext : Obligations.FetchWordIsRunNext := by
  intro s nbits w i hword
  have hdec : decode (cmdOf (withCmd s.req (BitVec.ofNat 5 (w % 2 ^ nbits)))) = .ok i := by
    rw [cmdOf_withCmd]
    exact decode_of_decodeTableWord hword
  exact ⟨_, withCmd_a _ _, withCmd_b _ _, withCmd_c _ _, hdec, step_legal_request rfl hdec⟩

/-! ### Responses stay in the order of acceptance -/

theorem answersInOrder_takeEvent {s : State} (h : AnswersInOrder s) (rest : List HostEvent) :
    AnswersInOrder (takeEvent s rest) := h

theorem answersInOrder_sampleRequest {s : State} (h : AnswersInOrder s) (r : Request)
    (rest : List HostEvent) : AnswersInOrder (sampleRequest s r rest) := h

/-- The answer to the request on the ports takes the last place, as the request does (R25). -/
theorem answersInOrder_enqueue_answer {s : State} (h : AnswersInOrder s) :
    AnswersInOrder (enqueue s (answer Config.nan s.req)) := by
  unfold AnswersInOrder at h ⊢
  calc s.delivered ++ (s.pending ++ [answer Config.nan s.req])
      = s.accepted.map (answer Config.nan) ++ [answer Config.nan s.req] := by
        rw [← List.append_assoc, h]
    _ = (s.accepted ++ [s.req]).map (answer Config.nan) := by simp

/-- A delivery moves a response between the two lists and keeps their concatenation (R33). -/
theorem answersInOrder_deliverOldest {s : State} (h : AnswersInOrder s) :
    AnswersInOrder (deliverOldest s) := by
  obtain ⟨-, -, haccepted, -⟩ := deliverOldest_frame s
  unfold AnswersInOrder at h ⊢
  rw [deliverOldest_order, haccepted, h]

/-- A reset cuts the history of requests where the delivered responses end (R152). -/
theorem answersInOrder_resetBlock {s : State} (h : AnswersInOrder s) :
    AnswersInOrder (resetBlock s) := by
  unfold AnswersInOrder at h ⊢
  calc s.delivered ++ []
      = (s.delivered ++ s.pending).take s.delivered.length := by simp
    _ = (s.accepted.take s.delivered.length).map (answer Config.nan) := by rw [h, List.map_take]

/-- The next event, whatever it is and with its fault taken, keeps the order of the answers. -/
theorem answersInOrder_proceed {s : State} (h : AnswersInOrder s) : AnswersInOrder (proceed s) := by
  match hhost : s.host with
  | [] =>
    rw [proceed_idle s hhost]
    exact answersInOrder_takeEvent h []
  | .deliver :: rest =>
    rw [proceed_deliver s rest hhost]
    exact answersInOrder_deliverOldest (answersInOrder_takeEvent h rest)
  | .reset :: rest =>
    rw [proceed_reset s rest hhost]
    exact answersInOrder_resetBlock (answersInOrder_takeEvent h rest)
  | .request r :: rest =>
    rw [proceed_request s r rest hhost]
    exact answersInOrder_enqueue_answer (answersInOrder_sampleRequest h r rest)

/-- A step that does not fault is what `proceed` does. -/
theorem proceed_of_step_next {s t : State} (h : step s = .next t) : proceed s = t := by
  simp only [proceed, h]

/-- Settles O16: each event keeps the order, and a step without a fault is a `proceed`. -/
theorem answersStayInOrder : Obligations.AnswersStayInOrder := by
  intro s hs
  refine ⟨fun t hstep => ?_, answersInOrder_proceed hs⟩
  rw [← proceed_of_step_next hstep]
  exact answersInOrder_proceed hs

end Sys2Proof.Machine
end

section
/-! PROOFS. Decode and encode undo each other (R39, R42), and `CMD[4]` decides neither whether a
command is legal nor which operation it names (R37). -/

namespace Sys2Proof

/-- The decoder gives every encoded instruction back (R39). -/
theorem decode_encode (i : Instr) : decode (encode i) = .ok i := by
  rcases i with v | v | v | v | v | v | v <;> cases v <;> decide

/-- A command that decodes is the encoding of what it decodes to (R39). -/
theorem encode_of_decode_ok {cmd : Cmd} {i : Instr} (h : decode cmd = .ok i) : encode i = cmd := by
  have key : ∀ c : Cmd,
      (match decode c with | .ok j => decide (encode j = c) | .error _ => true) = true := by decide
  have hcmd := key cmd
  rw [h] at hcmd
  exact of_decide_eq_true hcmd

/-- The same operation and format with another value of `CMD[4]` (R37). -/
def Instr.withBit4 (v : Bool) : Instr → Instr
  | .fmaFp32 _ => .fmaFp32 v
  | .fmaFp16 _ => .fmaFp16 v
  | .fmaBf16 _ => .fmaBf16 v
  | .widenFp16 _ => .widenFp16 v
  | .widenBf16 _ => .widenBf16 v
  | .narrowFp16 _ => .narrowFp16 v
  | .narrowBf16 _ => .narrowBf16 v

theorem encode_withBit4 (i : Instr) (v : Bool) :
    encode (i.withBit4 v) = packCmd v (fmtCode i.fmt) (opCode i.op) := by
  cases i <;> rfl

/-- The three fields of a command that decodes are those of its instruction (R34, R39). -/
theorem fields_of_decode_packCmd {v : Bool} {fmt op : BitVec 2} {i : Instr}
    (h : decode (packCmd v fmt op) = .ok i) :
    op = opCode i.op ∧ fmt = fmtCode i.fmt ∧ v = i.bit4 := by
  have henc : packCmd i.bit4 (fmtCode i.fmt) (opCode i.op) = packCmd v fmt op :=
    encode_of_decode_ok h
  refine ⟨?_, ?_, ?_⟩
  · simpa using (congrArg cmdOp henc).symm
  · simpa using (congrArg cmdFmt henc).symm
  · simpa using (congrArg cmdOvf henc).symm

/-- With another value of `CMD[4]` a legal command is the same operation (R37). -/
theorem decode_packCmd_withBit4 {v : Bool} {fmt op : BitVec 2} {i : Instr}
    (h : decode (packCmd v fmt op) = .ok i) (w : Bool) :
    decode (packCmd w fmt op) = .ok (i.withBit4 w) := by
  obtain ⟨rfl, rfl, -⟩ := fields_of_decode_packCmd h
  rw [← encode_withBit4, decode_encode]

/-- With another value of `CMD[4]` a reserved command stays reserved (R37, R141). -/
theorem decode_packCmd_error {v : Bool} {fmt op : BitVec 2} {e : DecodeError}
    (h : decode (packCmd v fmt op) = .error e) (w : Bool) :
    ∃ e', decode (packCmd w fmt op) = .error e' := by
  cases hw : decode (packCmd w fmt op) with
  | error e' => exact ⟨e', rfl⟩
  | ok i =>
    rw [decode_packCmd_withBit4 hw v] at h
    cases h

end Sys2Proof
end

section
/-! PROOFS. What an answer reads of its request (R21, R37, R38). -/

namespace Sys2Proof.Machine

theorem answer_of_decode_ok (N : NanParams) {r : Request} {i : Instr}
    (h : decode (cmdOf r) = .ok i) : answer N r = .ok (resultOf N i r) := by
  simp only [answer, h]

theorem answer_of_decode_error (N : NanParams) {r : Request} {e : DecodeError}
    (h : decode (cmdOf r) = .error e) : answer N r = .illegalCommand := by
  simp only [answer, h]

/-- Form T16 reads the low halves of its three ports (R38). -/
theorem operandsT16_congr {r q : Request}
    (ha : r.a.extractLsb' 0 16 = q.a.extractLsb' 0 16)
    (hb : r.b.extractLsb' 0 16 = q.b.extractLsb' 0 16)
    (hc : r.c.extractLsb' 0 16 = q.c.extractLsb' 0 16) : operandsT16 r = operandsT16 q := by
  simp only [operandsT16, low16, ha, hb, hc]

/-- Form U16 reads the low half of `a` (R38). -/
theorem operandU16_congr {r q : Request}
    (ha : r.a.extractLsb' 0 16 = q.a.extractLsb' 0 16) : operandU16 r = operandU16 q := ha

/-- Settles O11: a reserved command has one answer, and the result of a legal one is a function of
the operands of its form (R38) and, for the narrow FMA only, of `CMD[4]` (R37). -/
theorem ignoredPortsDoNotMatter : Obligations.IgnoredPortsDoNotMatter := by
  intro N r q hop hfmt hFma32 hFma16 hWiden hNarrow
  have hcmd : cmdOf q = packCmd q.ovfEn r.fmt r.op := by rw [cmdOf, hop, hfmt]
  cases hr : decode (cmdOf r) with
  | error e =>
    obtain ⟨e', hq⟩ := decode_packCmd_error hr q.ovfEn
    rw [answer_of_decode_error N hr, answer_of_decode_error N (hcmd ▸ hq)]
  | ok i =>
    have hq := decode_packCmd_withBit4 hr q.ovfEn
    rw [answer_of_decode_ok N hr, answer_of_decode_ok N (hcmd ▸ hq)]
    obtain ⟨hopi, hfmti, hbit⟩ := fields_of_decode_packCmd hr
    congr 1
    cases i with
    | fmaFp32 v =>
      obtain ⟨ha, hb, hc⟩ := hFma32 hopi hfmti
      simp only [Instr.withBit4, resultOf, fmaFp32Result, operandsT, ha, hb, hc]
    | fmaFp16 v =>
      obtain ⟨hovf, ha, hb, hc⟩ := hFma16 hopi (by simp [hfmti, Instr.fmt, fmtCode])
      obtain rfl : q.ovfEn = v := hovf.symm.trans hbit
      simp only [Instr.withBit4, resultOf, fmaFp16Result, operandsT16_congr ha hb hc]
    | fmaBf16 v =>
      obtain ⟨hovf, ha, hb, hc⟩ := hFma16 hopi (by simp [hfmti, Instr.fmt, fmtCode])
      obtain rfl : q.ovfEn = v := hovf.symm.trans hbit
      simp only [Instr.withBit4, resultOf, fmaBf16Result, operandsT16_congr ha hb hc]
    | widenFp16 v =>
      simp only [Instr.withBit4, resultOf, widenFp16Result, operandU16_congr (hWiden hopi)]
    | widenBf16 v =>
      simp only [Instr.withBit4, resultOf, widenBf16Result, operandU16_congr (hWiden hopi)]
    | narrowFp16 v =>
      simp only [Instr.withBit4, resultOf, narrowFp16Result, operandU32, hNarrow hopi]
    | narrowBf16 v =>
      simp only [Instr.withBit4, resultOf, narrowBf16Result, operandU32, hNarrow hopi]

end Sys2Proof.Machine
end

section
/-! PROOFS. Deliveries and whole runs: the oldest response goes first, and over any events without a
reset every request gets its own response in order (R25, R33, R142, R144, R157). -/

namespace Sys2Proof.Machine

open Sys2Proof.Safety

/-! ### One delivery -/

theorem rspValid_of_response {s : State} {q : Response} (h : s.rsp = .response q) :
    rspValid s = true := by
  simp only [rspValid, h]

theorem rspErr_of_response {s : State} {q : Response} (h : s.rsp = .response q) :
    rspErr s = errBit q := by
  simp only [rspErr, h]

theorem resultPort_of_ok {s : State} {w : Word32} (h : s.rsp = .response (.ok w)) :
    resultPort s = w := by
  simp only [resultPort, h]

theorem step_deliver {s : State} {rest : List HostEvent} (h : s.host = .deliver :: rest) :
    step s = .next (deliverOldest (takeEvent s rest)) := by
  simp only [step, h]

/-- Settles O7: the step is `deliverOldest`, and the ports show the response it delivers. -/
theorem oldestResponseIsDelivered : Obligations.OldestResponseIsDelivered := by
  intro s q later rest hhost hpending
  have hstep := step_deliver hhost
  rw [deliverOldest_cons (takeEvent s rest) q later hpending] at hstep
  refine ⟨_, hstep, rfl, rspValid_of_response rfl, ?_, ?_⟩
  · rintro rfl
    exact rspErr_of_response (q := .illegalCommand) rfl
  · rintro w rfl
    exact ⟨rspErr_of_response (q := .ok w) rfl, resultPort_of_ok rfl⟩

/-- Settles O15: with empty histories and nothing pending both sides are the empty list. -/
theorem resetAnswersInOrder : Obligations.ResetAnswersInOrder := by
  unfold Obligations.ResetAnswersInOrder AnswersInOrder
  rfl

@[simp] theorem deliverOldest_pending (s : State) :
    (deliverOldest s).pending = s.pending.tail := by
  cases h : s.pending with
  | nil => simp [h]
  | cons q later => simp [deliverOldest_cons s q later h]

/-- What was delivered stays delivered (R25). -/
theorem delivered_prefix_deliverOldest (s : State) :
    s.delivered <+: (deliverOldest s).delivered := by
  cases h : s.pending with
  | nil => rw [deliverOldest_nil s h]
  | cons q later =>
    rw [deliverOldest_cons s q later h]
    exact List.prefix_append _ _

/-! ### One event of a run -/

/-- Every event is served and leaves the list. -/
theorem proceed_host (s : State) : (proceed s).host = s.host.tail := by
  match hhost : s.host with
  | [] => rw [proceed_idle s hhost]; rfl
  | .deliver :: rest =>
    obtain ⟨hrest, -⟩ := deliverOldest_frame (takeEvent s rest)
    rw [proceed_deliver s rest hhost, hrest]
    rfl
  | .reset :: rest => rw [proceed_reset s rest hhost]; rfl
  | .request r :: rest => rw [proceed_request s r rest hhost]; rfl

theorem requestsOf_cons (e : HostEvent) (rest : List HostEvent) :
    requestsOf (e :: rest) = requestsOf [e] ++ requestsOf rest := by
  cases e <;> rfl

/-- An event other than a reset puts the answer to its request, if it is one, behind all responses
delivered and pending (R25, R144). -/
theorem proceed_order {s : State} {e : HostEvent} {rest : List HostEvent}
    (hhost : s.host = e :: rest) (he : e ≠ .reset) :
    (proceed s).delivered ++ (proceed s).pending =
      s.delivered ++ s.pending ++ (requestsOf [e]).map (answer Config.nan) := by
  cases e with
  | request r => simp [proceed_request s r rest hhost, requestsOf]
  | deliver =>
    rw [proceed_deliver s rest hhost, deliverOldest_order]
    simp [requestsOf]
  | reset => exact absurd rfl he

/-- No event takes a delivered response back, a reset neither (R152). -/
theorem delivered_prefix_proceed (s : State) : s.delivered <+: (proceed s).delivered := by
  match hhost : s.host with
  | [] => rw [proceed_idle s hhost]; exact List.prefix_rfl
  | .deliver :: rest =>
    rw [proceed_deliver s rest hhost]
    exact delivered_prefix_deliverOldest (takeEvent s rest)
  | .reset :: rest => rw [proceed_reset s rest hhost]; exact List.prefix_rfl
  | .request r :: rest => rw [proceed_request s r rest hhost]; exact List.prefix_rfl

/-! ### Whole runs -/

theorem serveAll_nil {s : State} (h : s.host = []) : serveAll s = s := by
  rw [serveAll, h]
  rfl

/-- A run serves the next event and then the others. -/
theorem serveAll_cons {s : State} {e : HostEvent} {rest : List HostEvent}
    (h : s.host = e :: rest) : serveAll s = serveAll (proceed s) := by
  rw [serveAll, serveAll, proceed_host, h]
  rfl

theorem delivered_prefix_proceedN (n : Nat) (s : State) :
    s.delivered <+: (proceedN n s).delivered := by
  induction n generalizing s with
  | zero => exact List.prefix_rfl
  | succ n ih => exact (delivered_prefix_proceed s).trans (ih (proceed s))

/-- Over events without a reset the answers to the requests join the responses, in order (R25). -/
theorem serveAll_order {events : List HostEvent} {s : State} (hhost : s.host = events)
    (hno : ∀ e ∈ events, e ≠ .reset) :
    (serveAll s).delivered ++ (serveAll s).pending =
      s.delivered ++ s.pending ++ (requestsOf events).map (answer Config.nan) := by
  induction events generalizing s with
  | nil => simp [serveAll_nil hhost, requestsOf]
  | cons e rest ih =>
    obtain ⟨he, hrest⟩ := List.forall_mem_cons.mp hno
    have htail : (proceed s).host = rest := by rw [proceed_host, hhost, List.tail_cons]
    rw [serveAll_cons hhost, ih htail hrest, proceed_order hhost he, requestsOf_cons e rest,
      List.map_append, List.append_assoc]

/-- Settles O17, by induction on the events. -/
theorem everyRequestIsAnsweredInOrder : Obligations.EveryRequestIsAnsweredInOrder := by
  intro s hno
  obtain ⟨more, hmore⟩ := delivered_prefix_proceedN s.host.length s
  exact ⟨serveAll_order rfl hno, more, hmore.symm⟩

/-- `n` deliveries take the `n` oldest responses from those pending (R25). -/
theorem serveAll_pending_of_deliveries {n : Nat} {s : State}
    (hhost : s.host = List.replicate n .deliver) :
    (serveAll s).pending = s.pending.drop n := by
  induction n generalizing s with
  | zero => rw [serveAll_nil hhost, List.drop_zero]
  | succ n ih =>
    have htail : (proceed s).host = List.replicate n .deliver := by
      rw [proceed_host, hhost, List.tail_replicate, Nat.add_sub_cancel]
    rw [serveAll_cons hhost, ih htail, proceed_deliver s _ hhost, deliverOldest_pending,
      takeEvent_pending, List.drop_tail]

/-- Requests first, then `n` deliveries: all but the `n` oldest responses are left. -/
theorem serveAll_pending {rs : List Request} {n : Nat} {s : State}
    (hhost : s.host = rs.map .request ++ List.replicate n .deliver) :
    (serveAll s).pending = (s.pending ++ rs.map (answer Config.nan)).drop n := by
  induction rs generalizing s with
  | nil => simpa using serveAll_pending_of_deliveries hhost
  | cons r rs ih =>
    have htail : (proceed s).host = rs.map .request ++ List.replicate n .deliver := by
      rw [proceed_host, hhost]
      rfl
    have hpending : (proceed s).pending = s.pending ++ [answer Config.nan r] := by
      rw [proceed_request s r _ hhost, enqueue_pending, sampleRequest_pending]
    rw [serveAll_cons hhost, ih htail, hpending, List.append_assoc]
    rfl

theorem requestsOf_requests_then_deliveries (rs : List Request) (n : Nat) :
    requestsOf (rs.map .request ++ List.replicate n .deliver) = rs := by
  induction rs with
  | nil =>
    induction n with
    | zero => rfl
    | succ n ih => exact ih
  | cons r rs ih => exact congrArg (r :: ·) ih

/-- Settles O18: enough deliveries leave nothing pending, so all responses in the order of
`serveAll_order` are delivered. -/
theorem runEndsWithEveryRequestAnswered : Obligations.RunEndsWithEveryRequestAnswered := by
  intro s rs n hhost hn
  have hpending : (serveAll s).pending = [] := by
    rw [serveAll_pending hhost]
    exact List.drop_eq_nil_of_le (by simpa using hn)
  have hno : ∀ e ∈ s.host, e ≠ .reset := by
    rw [hhost]
    simp only [List.mem_append, List.mem_map, List.mem_replicate]
    rintro e (⟨r, -, rfl⟩ | ⟨-, rfl⟩) <;> simp
  have horder := serveAll_order rfl hno
  rw [hpending, List.append_nil, hhost, requestsOf_requests_then_deliveries] at horder
  exact ⟨hpending, horder⟩

end Sys2Proof.Machine
end

section
/-! PROOFS. The command table: which words decode, and to what (R34, R39, R41, R141). -/

namespace Sys2Proof

/-- Every instruction names a legal pair of operation and format (R36). -/
theorem Instr.wellFormed_eq_true (i : Instr) : i.wellFormed = true := by
  cases i <;> rfl

/-- The commands that decode are the well-formed ones (R39, R42). -/
theorem decode_ok_iff_wellFormed (cmd : Cmd) :
    (∃ i, decode cmd = .ok i) ↔ cmdWellFormed cmd = true :=
  ⟨fun ⟨i, hi⟩ => wellFormed_of_decode_ok cmd i hi, decode_ok_of_wellFormed cmd⟩

/-- A command fails the checks of R36 for one of the three causes of R141. -/
theorem not_wellFormed_iff_reserved (cmd : Cmd) :
    ¬ cmdWellFormed cmd = true ↔
      (cmdOp cmd = 3#2 ∨ cmdFmt cmd = 3#2 ∨
        (cmdFmt cmd = 0#2 ∧ (cmdOp cmd = 1#2 ∨ cmdOp cmd = 2#2))) := by
  revert cmd
  decide

/-- Settles O1: `decode_encode` one way, `encode_of_decode_ok` the other. -/
theorem decodeAndEncodeAgree : Obligations.DecodeAndEncodeAgree :=
  ⟨fun i => ⟨i.wellFormed_eq_true, decode_encode i⟩, fun _ _ => encode_of_decode_ok⟩

/-- Settles O2: what does not decode is not well formed, for one of the three causes. -/
theorem reservedCommandsExactly : Obligations.ReservedCommandsExactly := by
  intro cmd
  rw [decode_ok_iff_wellFormed]
  exact not_wellFormed_iff_reserved cmd

/-- Settles O3: the words are literals, and the decoder and the encoder run on them. -/
theorem tableWordsDecode : Obligations.TableWordsDecode := by
  unfold Obligations.TableWordsDecode
  decide

end Sys2Proof
end

section
/-! PROOFS. One step: the request it runs, the idle cycle, and the hosts that never meet a fault (R32,
R33, R40, R140, R157). -/

namespace Sys2Proof.Machine

open Sys2Proof.Safety

/-- Settles O4: sampling the request is the update of the state that the statement writes out. -/
theorem stepRunsTheDecodedRequest : Obligations.StepRunsTheDecodedRequest :=
  fun _ _ _ _ hhost hdec => step_legal_request hhost hdec

theorem step_idle {s : State} (h : s.host = []) : step s = .next (takeEvent s []) := by
  simp only [step, h]

theorem rspValid_of_idle {s : State} (h : s.rsp = .idle) : rspValid s = false := by
  simp only [rspValid, h]

/-- Settles O14: taking no event from the empty list changes the response ports and the counter only. -/
theorem idleBlockGoesOn : Obligations.IdleBlockGoesOn := by
  intro s hhost
  have hidle : takeEvent s [] = { s with rsp := .idle, ticks := s.ticks + 1 } := by
    rw [takeEvent, ← hhost]
  exact ⟨hidle ▸ step_idle hhost, rspValid_of_idle rfl⟩

/-- No step is refused: the decoder and every arm of `exec` give their input a meaning (R39). -/
theorem step_ne_refused (s : State) (why : Refusal) : step s ≠ .refused why := by
  unfold step
  split
  · simp
  · simp
  · simp
  · split
    · simp [exec_eq_respond]
    · simp

/-- A request with a legal command decodes (R39). -/
theorem decode_of_legalRequest {r : Request} (h : legalRequest r = true) :
    ∃ i, decode (cmdOf r) = .ok i :=
  decode_ok_of_wellFormed (cmdOf r) h

/-- A host of legal commands meets neither a fault, which a reserved command raises, nor a
refusal (R140). -/
theorem step_of_legalHost {s : State} (hlegal : LegalHost s) : step s = .next (proceed s) := by
  cases hstep : step s with
  | next t => rw [proceed_of_step_next hstep]
  | fault f =>
    obtain ⟨r, rest, e, hhost, hdec, -⟩ := step_fault_cases s f hstep
    have hr : legalRequest r = true := hlegal r (by simp [hhost, requestsOf])
    obtain ⟨i, hi⟩ := decode_of_legalRequest hr
    rw [hdec] at hi
    cases hi
  | refused why => exact absurd hstep (step_ne_refused s why)

theorem requestsOf_tail_subset (events : List HostEvent) :
    requestsOf events.tail ⊆ requestsOf events := by
  cases events with
  | nil => exact List.Subset.refl _
  | cons e rest =>
    rw [requestsOf_cons]
    exact List.subset_append_right _ _

theorem legalHost_proceed {s : State} (h : LegalHost s) : LegalHost (proceed s) := by
  intro r hr
  rw [proceed_host] at hr
  exact h r (requestsOf_tail_subset s.host hr)

/-- Settles O9: the step is a `proceed`, which takes one event and adds none. -/
theorem legalHostNeverFaults : Obligations.LegalHostNeverFaults :=
  fun s h => ⟨proceed s, step_of_legalHost h, legalHost_proceed h⟩

end Sys2Proof.Machine
end

section
/-! PROOFS. The ports edge by edge (R33, R150 to R152, R156): what is in flight after each edge is told
from the edges alone, and so is the response that reaches the ports. -/

namespace Sys2Proof.Machine

/-! ### The queue of requests in flight -/

/-- The requests in flight once an edge without reset has sampled its request (R32). -/
def queueAt (N : NanParams) (lat : Nat) (c : Clocked) (e : Edge) : List InFlight :=
  if accepts e then c.flight ++ [⟨lat, answer N e.req⟩] else c.flight

theorem clockEdge_of_rst (N : NanParams) (lat : Nat) (c : Clocked) {e : Edge} (h : e.rst = true) :
    clockEdge N lat c e = clockedReset := by
  simp only [clockEdge, h, if_true]

theorem clockEdge_of_not_rst (N : NanParams) (lat : Nat) (c : Clocked) {e : Edge}
    (h : e.rst = false) : clockEdge N lat c e = emit (queueAt N lat c e) := by
  simp [clockEdge, queueAt, h]

theorem mem_queueAt {N : NanParams} {lat : Nat} {c : Clocked} {e : Edge} {f : InFlight} :
    f ∈ queueAt N lat c e ↔
      f ∈ c.flight ∨ (accepts e = true ∧ f = ⟨lat, answer N e.req⟩) := by
  unfold queueAt
  split <;> simp_all

/-- The older a request in flight is, the sooner it is due, and all are due within `bound` edges. -/
structure DueInOrder (bound : Nat) (l : List InFlight) : Prop where
  sorted : l.Pairwise fun f g => f.due < g.due
  lt_bound : ∀ f ∈ l, f.due < bound

theorem dueInOrder_nil (bound : Nat) : DueInOrder bound [] :=
  ⟨List.Pairwise.nil, fun _ hf => absurd hf List.not_mem_nil⟩

theorem dueInOrder_queueAt {N : NanParams} {lat : Nat} {c : Clocked} (e : Edge)
    (h : DueInOrder lat c.flight) : DueInOrder (lat + 1) (queueAt N lat c e) := by
  unfold queueAt
  split
  · refine ⟨List.pairwise_append.mpr ⟨h.sorted, List.pairwise_singleton _ _, ?_⟩, ?_⟩
    · intro f hf g hg
      rw [List.mem_singleton.mp hg]
      exact h.lt_bound f hf
    · intro f hf
      rcases List.mem_append.mp hf with hf | hf
      · exact Nat.lt_succ_of_lt (h.lt_bound f hf)
      · rw [List.mem_singleton.mp hf]
        exact Nat.lt_succ_self lat
  · exact ⟨h.sorted, fun f hf => Nat.lt_succ_of_lt (h.lt_bound f hf)⟩

/-! ### One edge passes -/

/-- What `emit` leaves in flight is what is not due now, one edge nearer. -/
theorem emit_flight {bound : Nat} {l : List InFlight} (h : DueInOrder bound l) :
    (emit l).flight = age (l.filter fun f => f.due ≠ 0) := by
  cases l with
  | nil => rfl
  | cons f rest =>
    obtain ⟨hlt, -⟩ := List.pairwise_cons.mp h.sorted
    have hrest : (rest.filter fun g => g.due ≠ 0) = rest :=
      List.filter_eq_self.mpr fun g hg => by simpa using Nat.ne_of_gt (Nat.zero_lt_of_lt (hlt g hg))
    rw [List.filter_cons, hrest]
    by_cases hf : f.due = 0 <;> simp [emit, hf]

theorem mem_emit_flight {bound : Nat} {l : List InFlight} (h : DueInOrder bound l)
    {f : InFlight} : f ∈ (emit l).flight ↔ ⟨f.due + 1, f.rsp⟩ ∈ l := by
  rw [emit_flight h]
  simp only [age, List.mem_map, List.mem_filter]
  constructor
  · rintro ⟨g, ⟨hg, hne⟩, rfl⟩
    have hdue : g.due - 1 + 1 = g.due := Nat.sub_add_cancel (Nat.pos_of_ne_zero (by simpa using hne))
    simpa [hdue] using hg
  · intro hf
    exact ⟨_, ⟨hf, by simp⟩, rfl⟩

theorem dueInOrder_emit {bound : Nat} {l : List InFlight} (h : DueInOrder (bound + 1) l) :
    DueInOrder bound (emit l).flight := by
  refine ⟨?_, fun f hf => ?_⟩
  · rw [emit_flight h, age, List.pairwise_map]
    refine (h.sorted.filter _).imp_of_mem ?_
    intro f g hf hg hlt
    have hne : f.due ≠ 0 := by simpa using (List.mem_filter.mp hf).2
    show f.due - 1 < g.due - 1
    omega
  · exact Nat.lt_of_succ_lt_succ (h.lt_bound _ ((mem_emit_flight h).mp hf))

/-- A response that is due now is the oldest in flight, and reaches the ports (R33). -/
theorem emit_out_of_due {bound : Nat} {l : List InFlight} (h : DueInOrder bound l) {q : Response}
    (hq : ⟨0, q⟩ ∈ l) : (emit l).out = .response q := by
  cases l with
  | nil => cases hq
  | cons f rest =>
    obtain ⟨hlt, -⟩ := List.pairwise_cons.mp h.sorted
    rcases List.mem_cons.mp hq with rfl | hq
    · rfl
    · exact absurd (hlt _ hq) (Nat.not_lt_zero _)

/-- With nothing due nothing is delivered (R33). -/
theorem emit_out_of_none_due {l : List InFlight} (h : ∀ q, ⟨0, q⟩ ∉ l) :
    (emit l).out = .idle := by
  cases l with
  | nil => rfl
  | cons f rest =>
    have hf : f.due ≠ 0 := fun h0 => h f.rsp (by simp [← h0])
    simp [emit, hf]

/-! ### The edges so far -/

/-- The block after the first `n` edges. -/
def clockedAfter (N : NanParams) (lat : Nat) (edges : List Edge) (n : Nat) : Clocked :=
  (edges.take n).foldl (clockEdge N lat) clockedReset

theorem clockedAfter_succ (N : NanParams) (lat : Nat) {edges : List Edge} {n : Nat} {e : Edge}
    (h : edges[n]? = some e) :
    clockedAfter N lat edges (n + 1) = clockEdge N lat (clockedAfter N lat edges n) e := by
  simp [clockedAfter, List.take_add_one, h]

/-- `clockRun` lists the ports after each edge. -/
theorem clockRun_getElem? (N : NanParams) (lat : Nat) (c : Clocked) {edges : List Edge} {u : Nat}
    {now : Edge} (h : edges[u]? = some now) :
    (clockRun N lat c edges)[u]? =
      some (clockEdge N lat ((edges.take u).foldl (clockEdge N lat) c) now).out := by
  induction edges generalizing c u with
  | nil => simp at h
  | cons e rest ih =>
    cases u with
    | zero =>
      obtain rfl : e = now := by simpa using h
      rfl
    | succ u => exact ih (clockEdge N lat c e) h

/-- Among the first `n` edges, one accepted a request that no reset has dropped since, and whose answer
`q` is for the edge `due` (R152, R156). -/
def Owed (N : NanParams) (lat : Nat) (edges : List Edge) (n due : Nat) (q : Response) : Prop :=
  ∃ t e, t < n ∧ t + lat = due ∧ edges[t]? = some e ∧ accepts e = true ∧
    (∀ k g, t ≤ k → k < n → edges[k]? = some g → g.rst = false) ∧ q = answer N e.req

theorem not_owed_of_rst {N : NanParams} {lat : Nat} {edges : List Edge} {n due : Nat} {q : Response}
    {e : Edge} (he : edges[n]? = some e) (hrst : e.rst = true) :
    ¬ Owed N lat edges (n + 1) due q := by
  rintro ⟨t, -, ht, -, -, -, hkept, -⟩
  rw [hkept n e (Nat.le_of_lt_succ ht) (Nat.lt_succ_self n) he] at hrst
  cases hrst

/-- An edge without reset drops nothing, and adds the request it accepts. -/
theorem owed_succ_iff {N : NanParams} {lat : Nat} {edges : List Edge} {n due : Nat} {q : Response}
    {e : Edge} (he : edges[n]? = some e) (hrst : e.rst = false) :
    Owed N lat edges (n + 1) due q ↔
      Owed N lat edges n due q ∨ (accepts e = true ∧ n + lat = due ∧ q = answer N e.req) := by
  constructor
  · rintro ⟨t, e', ht, hdue, he', hacc, hkept, hq⟩
    rcases Nat.lt_succ_iff_lt_or_eq.mp ht with ht | rfl
    · exact .inl ⟨t, e', ht, hdue, he', hacc,
        fun k g hk hkn => hkept k g hk (Nat.lt_succ_of_lt hkn), hq⟩
    · obtain rfl : e = e' := Option.some.inj (he.symm.trans he')
      exact .inr ⟨hacc, hdue, hq⟩
  · rintro (⟨t, e', ht, hdue, he', hacc, hkept, hq⟩ | ⟨hacc, hdue, hq⟩)
    · refine ⟨t, e', Nat.lt_succ_of_lt ht, hdue, he', hacc, fun k g hk hkn hg => ?_, hq⟩
      rcases Nat.lt_succ_iff_lt_or_eq.mp hkn with hkn | rfl
      · exact hkept k g hk hkn hg
      · rwa [← Option.some.inj (he.symm.trans hg)]
    · refine ⟨n, e, Nat.lt_succ_self n, hdue, he, hacc, fun k g hk hkn hg => ?_, hq⟩
      obtain rfl : n = k := Nat.le_antisymm hk (Nat.le_of_lt_succ hkn)
      rwa [← Option.some.inj (he.symm.trans hg)]

/-- The block after `n` edges: in flight, in order, is exactly what is owed from then on. -/
structure HoldsOwed (N : NanParams) (lat : Nat) (edges : List Edge) (n : Nat)
    (c : Clocked) : Prop where
  dueInOrder : DueInOrder lat c.flight
  mem_iff : ∀ f, f ∈ c.flight ↔ Owed N lat edges n (n + f.due) f.rsp

/-- The queue of the next edge is what is owed from that edge on, its own request included. -/
theorem mem_queueAt_iff_owed {N : NanParams} {lat : Nat} {edges : List Edge} {n : Nat} {c : Clocked}
    {e : Edge} (h : HoldsOwed N lat edges n c) (he : edges[n]? = some e) (hrst : e.rst = false)
    (f : InFlight) : f ∈ queueAt N lat c e ↔ Owed N lat edges (n + 1) (n + f.due) f.rsp := by
  rw [mem_queueAt, h.mem_iff f, owed_succ_iff he hrst]
  obtain ⟨due, rsp⟩ := f
  simp only [InFlight.mk.injEq, Nat.add_left_cancel_iff, eq_comm (a := lat)]

/-- One more edge keeps the invariant. -/
theorem holdsOwed_clockEdge {N : NanParams} {lat : Nat} {edges : List Edge} {n : Nat} {c : Clocked}
    {e : Edge} (h : HoldsOwed N lat edges n c) (he : edges[n]? = some e) :
    HoldsOwed N lat edges (n + 1) (clockEdge N lat c e) := by
  cases hrst : e.rst with
  | true =>
    rw [clockEdge_of_rst N lat c hrst]
    exact ⟨dueInOrder_nil lat, fun f =>
      ⟨fun hf => absurd hf List.not_mem_nil, fun hf => absurd hf (not_owed_of_rst he hrst)⟩⟩
  | false =>
    rw [clockEdge_of_not_rst N lat c hrst]
    have hqueue := dueInOrder_queueAt (N := N) e h.dueInOrder
    refine ⟨dueInOrder_emit hqueue, fun f => ?_⟩
    rw [mem_emit_flight hqueue, mem_queueAt_iff_owed h he hrst, Nat.add_assoc n 1, Nat.add_comm 1]

theorem holdsOwed_clockedAfter (N : NanParams) (lat : Nat) {edges : List Edge} {n : Nat}
    (hn : n ≤ edges.length) : HoldsOwed N lat edges n (clockedAfter N lat edges n) := by
  induction n with
  | zero =>
    refine ⟨dueInOrder_nil lat, fun f => ?_⟩
    exact ⟨fun hf => absurd hf List.not_mem_nil, fun ⟨t, _, ht, _⟩ => absurd ht (Nat.not_lt_zero t)⟩
  | succ n ih =>
    have he : edges[n]? = some edges[n] := List.getElem?_eq_getElem hn
    rw [clockedAfter_succ N lat he]
    exact holdsOwed_clockEdge (ih (Nat.le_of_succ_le hn)) he

/-- Settles O19: at an edge without reset the ports show what is owed at that edge, if anything is. -/
theorem requestsAreAnsweredAfterLatEdges : Obligations.RequestsAreAnsweredAfterLatEdges := by
  intro N lat edges u now hnow
  obtain ⟨hu, -⟩ := List.getElem?_eq_some_iff.mp hnow
  have hinv := holdsOwed_clockedAfter N lat (Nat.le_of_lt hu)
  have hrun : (clockRun N lat clockedReset edges)[u]? =
      some (clockEdge N lat (clockedAfter N lat edges u) now).out :=
    clockRun_getElem? N lat clockedReset hnow
  rw [hrun]
  refine ⟨fun hrst => ?_, fun t e hdue he hacc hkept => ?_, fun hrst hnone => ?_⟩
  · rw [clockEdge_of_rst N lat _ hrst]
    rfl
  · have ht : t ≤ u := by omega
    have hrst : now.rst = false := hkept u now ht (Nat.le_refl u) hnow
    have howed : Owed N lat edges (u + 1) (u + 0) (answer N e.req) :=
      ⟨t, e, Nat.lt_succ_of_le ht, hdue, he, hacc,
        fun k g hk hku => hkept k g hk (Nat.le_of_lt_succ hku), rfl⟩
    rw [clockEdge_of_not_rst N lat _ hrst,
      emit_out_of_due (dueInOrder_queueAt now hinv.dueInOrder)
        ((mem_queueAt_iff_owed hinv hnow hrst ⟨0, answer N e.req⟩).mpr howed)]
  · rw [clockEdge_of_not_rst N lat _ hrst, emit_out_of_none_due]
    intro q hq
    obtain ⟨t, e, -, hdue, he, hacc, hkept, -⟩ :=
      (mem_queueAt_iff_owed hinv hnow hrst ⟨0, q⟩).mp hq
    obtain ⟨k, g, hk, hku, hg, hgrst⟩ := hnone t e hdue he hacc
    rw [hkept k g hk (Nat.lt_succ_of_le hku) hg] at hgrst
    cases hgrst

end Sys2Proof.Machine
end

section
/-! PROOFS. The FP32 arithmetic where no NaN comes out (R106): its result is then the same for every
choice of the open NaN patterns, so that its values can be computed. -/

namespace Sys2Proof.Machine

/-- Every choice of the open part of a NaN is a NaN (R106). -/
theorem isNan_nanPattern (c : NanChoice) : isNan fp32 (nanPattern c).toNat = true := by
  have hp := c.payload.isLt
  have hs := Bool.toNat_le c.sign
  have hexp : expOf fp32 (nanPattern c).toNat = 255 := by
    show (nanPattern c).toNat >>> 23 % 2 ^ 8 = 255
    rw [nanPattern_toNat, Nat.shiftRight_eq_div_pow]
    omega
  have hman : manOf fp32 (nanPattern c).toNat = c.payload.val + 1 := by
    show (nanPattern c).toNat % 2 ^ 23 = c.payload.val + 1
    rw [nanPattern_toNat]
    omega
  exact (isNan_iff fp32 _ (by decide)).mpr ⟨hexp, by omega⟩

/-- A product that is no NaN does not depend on the NaN parameters (R103, R106). -/
theorem mul32_eq_of_not_nan {K : NanParams} {x y : Word32}
    (h : isNan fp32 (mul32 K x y).toNat = false) (N : NanParams) : mul32 N x y = mul32 K x y := by
  unfold mul32 at h ⊢
  split_ifs at h ⊢ <;> simp_all [isNan_nanPattern]

/-- A sum that is no NaN does not depend on the NaN parameters (R104, R106). -/
theorem add32_eq_of_not_nan {K : NanParams} {x y : Word32}
    (h : isNan fp32 (add32 K x y).toNat = false) (N : NanParams) : add32 N x y = add32 K x y := by
  unfold add32 at h ⊢
  split_ifs at h ⊢ <;> simp_all [isNan_nanPattern]

/-- A product computed with `REF_NAN` that is no NaN is the product for every choice of NaNs. -/
theorem mul32_eq_of_refNan {x y p : Word32}
    (h : mul32 refNan x y = p ∧ isNan fp32 p.toNat = false) (N : NanParams) : mul32 N x y = p := by
  obtain ⟨hmul, hp⟩ := h
  rw [mul32_eq_of_not_nan (hmul ▸ hp) N, hmul]

/-- A multiply-add computed with `REF_NAN` without meeting a NaN is that of every choice of NaNs. -/
theorem add32_mul32_eq_of_refNan {x y z p v : Word32}
    (h : (mul32 refNan x y = p ∧ isNan fp32 p.toNat = false) ∧
      add32 refNan p z = v ∧ isNan fp32 v.toNat = false) (N : NanParams) :
    add32 N (mul32 N x y) z = v := by
  obtain ⟨hmul, hadd, hv⟩ := h
  rw [mul32_eq_of_refNan hmul N, add32_eq_of_not_nan (hadd ▸ hv) N, hadd]

/-- Settles O20: `exec` is `respond`, and the values of the rule meet no NaN. -/
theorem fmaFp32Completes : Obligations.FmaFp32Completes := by
  refine ⟨fun v s => ?_, fun N => ⟨?_, ?_, ?_, ?_, ?_, ?_, ?_⟩⟩
  · rw [exec_eq_respond, respond_eq]
    rfl
  · exact add32_mul32_eq_of_refNan (p := 0x00400000#32) (by decide +kernel) N
  · exact add32_mul32_eq_of_refNan (p := 0x00800000#32) (by decide +kernel) N
  · exact add32_mul32_eq_of_refNan (p := 0x00000000#32) (by decide +kernel) N
  · exact add32_mul32_eq_of_refNan (p := 0x00000002#32) (by decide +kernel) N
  · exact add32_mul32_eq_of_refNan (p := 0x7F800000#32) (by decide +kernel) N
  · exact mul32_eq_of_refNan (by decide +kernel) N
  · exact add32_mul32_eq_of_refNan (p := 0x420C0000#32) (by decide +kernel) N

end Sys2Proof.Machine
end

section
/-! PROOFS. The operations on the halves of a port (R21), and the conversions that read or write one
(R37, R62, R88). -/

namespace Sys2Proof.Machine

@[simp] theorem low16_zext32 (w : Word16) : (zext32 w).extractLsb' 0 16 = w := by
  ext i hi
  simp [zext32, hi, Nat.lt_trans hi]

@[simp] theorem high16_zext32 (w : Word16) : (zext32 w).extractLsb' 16 16 = 0#16 := by
  ext i hi
  simp [zext32]

/-- Widening the low half of a port to FP32 shifts the port (R62). -/
theorem widenBf16_low16 (w : Word32) : widenBf16 (low16 w) = w <<< 16 := by
  rw [BitVec.shiftLeft_eq_concat_of_lt (by decide), BitVec.cast_eq]
  rfl

/-- Settles O24: the shifted low half is the shifted port. -/
theorem widenBf16Completes : Obligations.WidenBf16Completes := by
  refine ⟨fun v s => ?_, by decide⟩
  rw [exec_eq_respond, respond_eq, ← widenBf16_low16]
  rfl

/-- Settles O25: the result is `narrow_FP16(a)` with zeros above. -/
theorem narrowFp16Completes : Obligations.NarrowFp16Completes := by
  refine ⟨fun v s => ⟨zext32 (narrowFp16 s.req.a), ?_, low16_zext32 _, high16_zext32 _⟩, by decide⟩
  rw [exec_eq_respond, respond_eq]
  rfl

end Sys2Proof.Machine
end

section
/-! PROOFS. Narrowing as a sum of fields (R80 to R86), and its reduced form for BF16 (R89). -/

namespace Sys2Proof.Machine

/-! ### The fields of an FP32 pattern -/

theorem expOf_eq_div_mod (F : FormatDesc) (x : Nat) : expOf F x = x / 2 ^ F.M % 2 ^ F.E := by
  rw [expOf, Nat.shiftRight_eq_div_pow]

theorem signOf_fp32_eq_msb (x : Word32) : signOf fp32 x.toNat = x.msb := sign32_eq_msb x

theorem msb_toNat_eq_div (x : Word32) : x.msb.toNat = x.toNat / 2 ^ 31 := by
  have := x.isLt
  rw [BitVec.msb_eq_decide]
  by_cases h : 2 ^ (32 - 1) ≤ x.toNat <;>
    simp only [h, decide_true, decide_false, Bool.toNat_true, Bool.toNat_false] <;> omega

/-! ### Narrowing, class by class -/

theorem narrow_eq_narrowGeneric (f : NarrowFmt) (x : Word32) :
    narrow f x = narrowGeneric (narrowDesc f) x := by
  cases f <;> rfl

theorem narrowDesc_width (f : NarrowFmt) :
    (narrowDesc f).W = 1 + (narrowDesc f).E + (narrowDesc f).M ∧ (narrowDesc f).W = 16 ∧
      (narrowDesc f).M ≤ 23 := by
  cases f <;> decide

/-- A packed narrow pattern is the sum of its fields: it fits sixteen bits (R51). -/
theorem toNat_ofNat_pack (f : NarrowFmt) (s : Bool) {e m : Nat} (he : e < 2 ^ (narrowDesc f).E)
    (hm : m < 2 ^ (narrowDesc f).M) :
    (BitVec.ofNat 16 (pack (narrowDesc f) s e m)).toNat =
      s.toNat * 2 ^ 15 + (e * 2 ^ (narrowDesc f).M + m) := by
  have hs := Bool.toNat_le s
  obtain ⟨hW, h16, -⟩ := narrowDesc_width f
  rw [BitVec.toNat_ofNat, pack_eq_sum _ s e m hW he hm, h16, Nat.add_assoc]
  apply Nat.mod_eq_of_lt
  have hfields : e * 2 ^ (narrowDesc f).M + m < 2 ^ 15 := by
    cases f <;> simp only [narrowDesc, fp16, bf16] at he hm ⊢ <;> omega
  omega

theorem emax_lt (F : FormatDesc) : emax F < 2 ^ F.E :=
  Nat.sub_lt (Nat.two_pow_pos _) Nat.one_pos

/-- A zero or a subnormal gives the zero of its sign (R81, conflict C3). -/
theorem narrow_toNat_of_exp_zero (f : NarrowFmt) {x : Word32} (he : expOf fp32 x.toNat = 0) :
    (narrow f x).toNat = x.msb.toNat * 2 ^ 15 := by
  rw [narrow_eq_narrowGeneric, narrowGeneric, signOf_fp32_eq_msb]
  simp only [he, if_true]
  rw [toNat_ofNat_pack f _ (Nat.two_pow_pos _) (Nat.two_pow_pos _)]
  simp only [Nat.zero_mul, Nat.add_zero]

/-- An infinity gives the infinity of its sign (R82). -/
theorem narrow_toNat_of_inf (f : NarrowFmt) {x : Word32} (he : expOf fp32 x.toNat = 255)
    (hm : manOf fp32 x.toNat = 0) :
    (narrow f x).toNat =
      x.msb.toNat * 2 ^ 15 + emax (narrowDesc f) * 2 ^ (narrowDesc f).M := by
  rw [narrow_eq_narrowGeneric, narrowGeneric, signOf_fp32_eq_msb]
  simp only [he, hm, and_self, if_true, Nat.reduceEqDiff, if_false]
  rw [toNat_ofNat_pack f _ (emax_lt _) (Nat.two_pow_pos _), Nat.add_zero]

/-- A NaN keeps its sign and the top of its mantissa, with 1 in place of a mantissa of 0 (R83). -/
theorem narrow_toNat_of_nan (f : NarrowFmt) {x : Word32} (he : expOf fp32 x.toNat = 255)
    (hm : manOf fp32 x.toNat ≠ 0) :
    (narrow f x).toNat = x.msb.toNat * 2 ^ 15 + (emax (narrowDesc f) * 2 ^ (narrowDesc f).M +
      max 1 (manOf fp32 x.toNat / 2 ^ (23 - (narrowDesc f).M))) := by
  have hfit : max 1 (manOf fp32 x.toNat / 2 ^ (23 - (narrowDesc f).M)) < 2 ^ (narrowDesc f).M := by
    have hlt : manOf fp32 x.toNat < 2 ^ 23 := manOf_lt fp32 x.toNat
    cases f <;> simp only [narrowDesc, fp16, bf16] <;> omega
  have hforced : ∀ m : Nat, (if m = 0 then 1 else m) = max 1 m := fun m => by split <;> omega
  rw [narrow_eq_narrowGeneric, narrowGeneric, signOf_fp32_eq_msb]
  simp only [he, hm, and_false, if_true, Nat.reduceEqDiff, if_false, hforced,
    Nat.shiftRight_eq_div_pow]
  rw [toNat_ofNat_pack f _ (emax_lt _) hfit]

/-- The rounded mantissa is at most one above the field's largest value (R73). -/
theorem rneShift_man_le {F : FormatDesc} (hM : F.M ≤ 23) {m : Nat} (hm : m < 2 ^ 23) :
    rneShift m (23 - F.M) ≤ 2 ^ F.M := by
  have hpow : 2 ^ 23 = 2 ^ (23 - F.M) * 2 ^ F.M := by rw [← Nat.pow_add, Nat.sub_add_cancel hM]
  obtain ⟨-, hle⟩ := rneShift_bounds m (23 - F.M)
  have hdiv : m / 2 ^ (23 - F.M) < 2 ^ F.M := Nat.div_lt_of_lt_mul (hpow ▸ hm)
  omega

/-- In range the rounded mantissa is added below the exponent, and its carry runs into it (R85, R86). -/
theorem toNat_ofNat_narrowNormal (f : NarrowFmt) (s : Bool) {e m : Nat}
    (he : e < emax (narrowDesc f)) (hm : m < 2 ^ 23) :
    (BitVec.ofNat 16 (narrowNormal (narrowDesc f) s e m)).toNat = s.toNat * 2 ^ 15 +
      (e * 2 ^ (narrowDesc f).M + rneShift m (23 - (narrowDesc f).M)) := by
  obtain ⟨-, -, hM⟩ := narrowDesc_width f
  have hround := rneShift_man_le hM hm
  have he' : e + 1 < 2 ^ (narrowDesc f).E := Nat.lt_of_le_of_lt he (emax_lt _)
  have hcarry : narrowNormal (narrowDesc f) s e m =
      if rneShift m (23 - (narrowDesc f).M) = 2 ^ (narrowDesc f).M then
        pack (narrowDesc f) s (e + 1) 0
      else pack (narrowDesc f) s e (rneShift m (23 - (narrowDesc f).M)) := by
    simp only [narrowNormal]
    split
    · split
      · next htop => rw [htop]
      · rfl
    · rfl
  rw [hcarry]
  split
  · next heq =>
    rw [toNat_ofNat_pack f s he' (Nat.two_pow_pos _), heq, Nat.succ_mul, Nat.add_zero]
  · next hne =>
    rw [toNat_ofNat_pack f s (Nat.lt_of_succ_lt he') (Nat.lt_of_le_of_ne hround hne)]

/-- A normal whose rebiased exponent `e` is in range (R85, R86). -/
theorem narrow_toNat_of_normal (f : NarrowFmt) {x : Word32} {e : Nat}
    (h0 : expOf fp32 x.toNat ≠ 0) (h255 : expOf fp32 x.toNat ≠ 255)
    (he : (e : Int) = (expOf fp32 x.toNat : Int) - 127 + (narrowDesc f).bias)
    (h1 : 1 ≤ e) (hmax : e < emax (narrowDesc f)) :
    (narrow f x).toNat = x.msb.toNat * 2 ^ 15 + (e * 2 ^ (narrowDesc f).M +
      rneShift (manOf fp32 x.toNat) (23 - (narrowDesc f).M)) := by
  have hlow : ¬ (e : Int) ≥ emax (narrowDesc f) := by omega
  have hhigh : (e : Int) ≥ 1 := by omega
  rw [narrow_eq_narrowGeneric, narrowGeneric, signOf_fp32_eq_msb]
  simp only [h0, h255, false_and, if_false, ← he, hlow, hhigh, if_true, Int.toNat_natCast]
  exact toNat_ofNat_narrowNormal f _ hmax (manOf_lt fp32 x.toNat)

/-! ### The reduced form for BF16 -/

/-- Rounding leaves an even number of kept units alone: they do not change the parity that a tie looks
at (R71). -/
theorem rneShift_add_even (v k : Nat) {n : Nat} (hn : 0 < n) :
    rneShift (2 ^ n * (2 * k) + v) n = 2 * k + rneShift v n := by
  rw [rneShift_cases _ n hn, rneShift_cases v n hn, Nat.mul_add_mod,
    Nat.mul_add_div (Nat.two_pow_pos n), Nat.mul_add_mod]
  split_ifs <;> omega

/-- The reduced pseudocode of R89 on a pattern `a` of 32 bits. -/
def narrowBf16Reduced (a : Nat) : Nat :=
  if a / 2 ^ 23 % 2 ^ 8 = 0 then a / 2 ^ 31 * 2 ^ 15
  else if a % 2 ^ 31 = 0x7F800000 then a / 2 ^ 16
  else if 0x7F800000 < a % 2 ^ 31 then
    (if a / 2 ^ 16 % 2 ^ 7 ≠ 0 then a / 2 ^ 16 else a / 2 ^ 16 + 1)
  else rneShift (a % 2 ^ 31) 16 + a / 2 ^ 31 * 2 ^ 15

/-- A BF16 NaN is the top half of the FP32 one, with the forced mantissa bit where it would be an
infinity (R83, R89). -/
theorem narrowBf16_toNat_of_nan {x : Word32} (he : expOf fp32 x.toNat = 255)
    (hm : manOf fp32 x.toNat ≠ 0) :
    (narrowBf16 x).toNat =
      if x.toNat / 2 ^ 16 % 2 ^ 7 ≠ 0 then x.toNat / 2 ^ 16 else x.toNat / 2 ^ 16 + 1 := by
  have hexp : x.toNat / 2 ^ 23 % 2 ^ 8 = 255 := (expOf_eq_div_mod fp32 x.toNat).symm.trans he
  have hnan : (narrowBf16 x).toNat = x.msb.toNat * 2 ^ 15 +
      (255 * 2 ^ 7 + max 1 (x.toNat % 2 ^ 23 / 2 ^ 16)) := narrow_toNat_of_nan .bf16 he hm
  rw [hnan, msb_toNat_eq_div]
  have hx := x.isLt
  split <;> omega

/-- A BF16 exponent is the FP32 one, so that the exponent's bits join the integer that is rounded
(R89, R90). -/
theorem narrowBf16_toNat_of_normal {x : Word32} (h0 : expOf fp32 x.toNat ≠ 0)
    (h255 : expOf fp32 x.toNat ≠ 255) :
    (narrowBf16 x).toNat = x.msb.toNat * 2 ^ 15 + rneShift (x.toNat % 2 ^ 31) 16 := by
  have hlt : expOf fp32 x.toNat < 2 ^ 8 := expOf_lt fp32 x.toNat
  have hnormal : (narrowBf16 x).toNat = x.msb.toNat * 2 ^ 15 +
      (expOf fp32 x.toNat * 2 ^ 7 + rneShift (x.toNat % 2 ^ 23) 16) :=
    narrow_toNat_of_normal .bf16 h0 h255 (by show _ = _ - 127 + 127; omega) (by omega)
      (by show _ < 255; omega)
  have hexp : expOf fp32 x.toNat = x.toNat / 2 ^ 23 % 2 ^ 8 := expOf_eq_div_mod fp32 x.toNat
  have hmag : x.toNat % 2 ^ 31 =
      2 ^ 16 * (2 * (expOf fp32 x.toNat * 2 ^ 6)) + x.toNat % 2 ^ 23 := by omega
  rw [hnormal, hmag, rneShift_add_even _ _ (by decide)]
  omega

/-- The rule's reduced form is `narrow_BF16`, class by class (R89). -/
theorem narrowBf16_toNat (x : Word32) : (narrowBf16 x).toNat = narrowBf16Reduced x.toNat := by
  have hx := x.isLt
  have hexp : expOf fp32 x.toNat = x.toNat / 2 ^ 23 % 2 ^ 8 := expOf_eq_div_mod fp32 x.toNat
  have hman : manOf fp32 x.toNat = x.toNat % 2 ^ 23 := rfl
  unfold narrowBf16Reduced
  split
  · next hzero => rw [← msb_toNat_eq_div, ← narrow_toNat_of_exp_zero .bf16 (hexp.trans hzero), narrow]
  split
  · next hinf =>
    have htop : (narrowBf16 x).toNat = x.msb.toNat * 2 ^ 15 + 255 * 2 ^ 7 :=
      narrow_toNat_of_inf .bf16 (by omega) (by omega)
    rw [htop, msb_toNat_eq_div]
    omega
  split
  · exact narrowBf16_toNat_of_nan (by omega) (by omega)
  · rw [narrowBf16_toNat_of_normal (by omega) (by omega), msb_toNat_eq_div, Nat.add_comm]

theorem zext32_eq_ofNat (w : Word16) : zext32 w = BitVec.ofNat 32 w.toNat :=
  BitVec.eq_of_toNat_eq (by simp [zext32])

/-- Settles O26: the reduced form is the converter's result, which fits the low half. -/
theorem narrowBf16Completes : Obligations.NarrowBf16Completes := by
  refine ⟨?_, by decide⟩
  rintro v s a m res rfl rfl hres
  have hnarrow : (narrowBf16 s.req.a).toNat = res := (narrowBf16_toNat s.req.a).trans hres.symm
  refine ⟨?_, hnarrow ▸ (narrowBf16 s.req.a).isLt⟩
  rw [exec_eq_respond, respond_eq, ← hnarrow, ← zext32_eq_ofNat]
  rfl

end Sys2Proof.Machine
end

section
/-! PROOFS. A pattern as the sum of its fields (R51), its value as a whole number of smallest subnormals
(R53), and the distance to the next pattern (R59). -/

namespace Sys2Proof.Machine

/-! ### The fields of a pattern -/

theorem signOf_toNat_eq_div_mod (F : FormatDesc) (x : Nat) :
    (signOf F x).toNat = x / 2 ^ (F.W - 1) % 2 := Nat.toNat_testBit x _

/-- Exponent and mantissa together are the pattern without its sign (R51). -/
theorem expOf_mul_add_manOf (F : FormatDesc) (x : Nat) :
    expOf F x * 2 ^ F.M + manOf F x = x % 2 ^ (F.M + F.E) := by
  rw [expOf_eq_div_mod, manOf, Nat.pow_add, Nat.mod_mul, Nat.mul_comm, Nat.add_comm]

/-- A pattern that fits its width is the sum of its placed fields (R51). -/
theorem sum_fields_eq {F : FormatDesc} (hW : F.W = 1 + F.E + F.M) {x : Nat} (hx : x < 2 ^ F.W) :
    (signOf F x).toNat * 2 ^ (F.W - 1) + expOf F x * 2 ^ F.M + manOf F x = x := by
  have hW1 : F.W - 1 = F.M + F.E := by omega
  have htop : x / 2 ^ (F.W - 1) < 2 := by
    apply Nat.div_lt_of_lt_mul
    rwa [← Nat.pow_succ, Nat.succ_eq_add_one, Nat.sub_add_cancel (by omega)]
  rw [signOf_toNat_eq_div_mod, Nat.mod_eq_of_lt htop, Nat.add_assoc, expOf_mul_add_manOf, hW1]
  exact Nat.div_add_mod' x _

theorem descOf_width (f : Fmt) : (descOf f).W = 1 + (descOf f).E + (descOf f).M := by
  cases f <;> rfl

/-- Settles O27: the fields fit their places, so packing them is adding them. -/
theorem patternIsItsFields : Obligations.PatternIsItsFields := by
  intro f x hx
  have hsum := sum_fields_eq (descOf_width f) hx
  exact ⟨(pack_eq_sum _ _ _ _ (descOf_width f) (expOf_lt _ x) (manOf_lt _ x)).trans hsum, hsum⟩

/-! ### The value of a pattern -/

theorem unitsOf_of_exp_zero {F : FormatDesc} {x : Nat} (he : expOf F x = 0) :
    unitsOf F x = manOf F x := by
  rw [unitsOf, if_pos he]

theorem unitsOf_of_exp_succ {F : FormatDesc} {x k : Nat} (he : expOf F x = k + 1) :
    unitsOf F x = (2 ^ F.M + manOf F x) * 2 ^ k := by
  rw [unitsOf, he, if_neg (Nat.succ_ne_zero k), Nat.add_sub_cancel, Nat.shiftLeft_eq]

/-- The unit of biased exponent `k + 1` is `2 ^ k` smallest subnormals (R53). -/
theorem two_zpow_eq_div_unitScale {F : FormatDesc} (hF : 0 < F.bias + F.M) (k : Nat) :
    (2 : ℚ) ^ (((k + 1 : Nat) : Int) - F.bias - F.M) = 2 ^ k / 2 ^ unitScale F := by
  have hexp : ((k + 1 : Nat) : Int) - F.bias - F.M = (k : Int) - (unitScale F : Int) := by
    unfold unitScale
    omega
  rw [hexp, zpow_sub₀ two_ne_zero, zpow_natCast, zpow_natCast]

/-- The real number of a finite pattern, over all its classes at once (R53). -/
theorem realOf_eq_units {F : FormatDesc} (hF : 0 < F.bias + F.M) {x : Nat}
    (hfin : isFinite F x = true) :
    realOf F x =
      some ((-1) ^ (signOf F x).toNat * (unitsOf F x : ℚ) / 2 ^ unitScale F) := by
  have hmax := (isFinite_iff F x).mp hfin
  cases he : expOf F x with
  | zero =>
    rw [unitsOf_of_exp_zero he]
    by_cases hm : manOf F x = 0
    · rw [realOf_of_isZero F x ((isZero_iff F x).mpr ⟨he, hm⟩), hm]
      simp
    · have hclass : classOf F x = .subnormal := by rw [classOf, if_pos he, if_neg hm]
      have hunit : (2 : ℚ) ^ (1 - (F.bias : Int) - F.M) = 1 / 2 ^ unitScale F := by
        simpa using two_zpow_eq_div_unitScale hF 0
      simp only [realOf_eq, hclass, hunit, mul_one_div]
  | succ k =>
    have hclass : classOf F x = .normal := by
      rw [classOf, if_neg (by omega), if_neg hmax]
    rw [unitsOf_of_exp_succ he]
    simp only [realOf_eq, hclass, he, two_zpow_eq_div_unitScale hF]
    rw [Option.some_inj]
    push_cast
    ring

theorem valOf_of_isZero {F : FormatDesc} {x : Nat} (h : isZero F x = true) :
    valOf F x = some (.zero (signOf F x)) := by
  have hclass : classOf F x = .zero := by simpa [isZero] using h
  simp only [valOf, hclass]

theorem valOf_of_isInf {F : FormatDesc} {x : Nat} (h : isInf F x = true) :
    valOf F x = some (.infinity (signOf F x)) := by
  have hclass : classOf F x = .infinity := by simpa [isInf] using h
  simp only [valOf, hclass]

theorem valOf_of_isNan {F : FormatDesc} {x : Nat} (h : isNan F x = true) : valOf F x = none := by
  have hclass : classOf F x = .nan := by simpa [isNan] using h
  simp only [valOf, hclass]

theorem descOf_scale_pos (f : Fmt) : 0 < (descOf f).bias + (descOf f).M := by
  cases f <;> decide

/-- Settles O28: class by class, the subnormals and normals together in units. -/
theorem valueIsAWholeNumberOfUnits : Obligations.ValueIsAWholeNumberOfUnits :=
  fun f _ =>
    ⟨realOf_eq_units (descOf_scale_pos f), valOf_of_isZero, valOf_of_isInf, valOf_of_isNan⟩

/-! ### The next pattern -/

/-- What stands above the mantissa field gives the exponent, what stands in it the mantissa (R51). -/
theorem fields_mul_add {F : FormatDesc} (d : Nat) {m : Nat} (hm : m < 2 ^ F.M) :
    expOf F (2 ^ F.M * d + m) = d % 2 ^ F.E ∧ manOf F (2 ^ F.M * d + m) = m := by
  rw [expOf_eq_div_mod, manOf, Nat.mul_add_div (Nat.two_pow_pos _), Nat.div_eq_of_lt hm,
    Nat.mul_add_mod, Nat.mod_eq_of_lt hm, Nat.add_zero]
  exact ⟨rfl, rfl⟩

/-- Below the top of its field the mantissa counts up and the exponent stays. -/
theorem fields_succ_of_no_carry {F : FormatDesc} {x : Nat} (hm : manOf F x + 1 < 2 ^ F.M) :
    expOf F (x + 1) = expOf F x ∧ manOf F (x + 1) = manOf F x + 1 := by
  have hx : x + 1 = 2 ^ F.M * (x / 2 ^ F.M) + (manOf F x + 1) := by
    rw [← Nat.add_assoc, manOf, Nat.div_add_mod]
  rw [hx, expOf_eq_div_mod F x]
  exact fields_mul_add _ hm

/-- At the top of its field the mantissa restarts and carries into the exponent. -/
theorem fields_succ_of_carry {F : FormatDesc} {x : Nat} (hm : manOf F x + 1 = 2 ^ F.M)
    (he : expOf F x + 1 < 2 ^ F.E) :
    expOf F (x + 1) = expOf F x + 1 ∧ manOf F (x + 1) = 0 := by
  have hx : x + 1 = 2 ^ F.M * (x / 2 ^ F.M + 1) + 0 := by
    rw [Nat.mul_add_one, ← hm, Nat.add_zero, ← Nat.add_assoc, hm, manOf, Nat.div_add_mod]
  have hexp : (x / 2 ^ F.M + 1) % 2 ^ F.E = expOf F x + 1 := by
    rw [← Nat.mod_add_mod, ← expOf_eq_div_mod, Nat.mod_eq_of_lt he]
  rw [hx, ← hexp]
  exact fields_mul_add _ (Nat.two_pow_pos _)

theorem expOf_succ_lt {F : FormatDesc} {x : Nat} (hfin : isFinite F x = true) :
    expOf F x + 1 < 2 ^ F.E := by
  have hne := (isFinite_iff F x).mp hfin
  have hlt := expOf_lt F x
  unfold emax at hne
  omega

/-- The next pattern has the magnitude one unit of its exponent larger, across a binade too (R59). -/
theorem unitsOf_succ {F : FormatDesc} {x : Nat} (hfin : isFinite F x = true) :
    unitsOf F (x + 1) = unitsOf F x + 2 ^ (expOf F x - 1) := by
  rcases Nat.lt_or_eq_of_le (show manOf F x + 1 ≤ 2 ^ F.M from manOf_lt F x) with hm | hm
  · obtain ⟨hexp, hman⟩ := fields_succ_of_no_carry hm
    cases he : expOf F x with
    | zero => rw [unitsOf_of_exp_zero he, unitsOf_of_exp_zero (hexp.trans he), hman, Nat.zero_sub, Nat.pow_zero]
    | succ k =>
      rw [unitsOf_of_exp_succ he, unitsOf_of_exp_succ (hexp.trans he), hman, Nat.add_sub_cancel]
      ring
  · obtain ⟨hexp, hman⟩ := fields_succ_of_carry hm (expOf_succ_lt hfin)
    rw [unitsOf_of_exp_succ hexp, hman, Nat.add_zero, ← hm]
    cases he : expOf F x with
    | zero => rw [unitsOf_of_exp_zero he, Nat.pow_zero, Nat.mul_one]
    | succ k =>
      rw [unitsOf_of_exp_succ he, ← hm, Nat.add_sub_cancel, Nat.pow_succ]
      ring

theorem ulpOf_eq_units {F : FormatDesc} (hF : 0 < F.bias + F.M) (x : Nat) :
    ulpOf F x = 2 ^ (expOf F x - 1) / 2 ^ unitScale F := by
  have hmax : (max (expOf F x) 1 : Int) = ((expOf F x - 1 + 1 : Nat) : Int) := by omega
  rw [ulpOf, hmax, two_zpow_eq_div_unitScale hF]

theorem isFinite_of_realOf {F : FormatDesc} (hF : 0 < emax F) {x : Nat} {v : ℚ}
    (h : realOf F x = some v) : isFinite F x = true := by
  rw [← realOf_isSome F x hF, h, Option.isSome_some]

theorem descOf_emax_pos (f : Fmt) : 0 < emax (descOf f) := by
  cases f <;> decide

/-- Settles O29: with one sign the values differ as the magnitudes do, by one unit of the exponent. -/
theorem nextPatternIsOneUlpAway : Obligations.NextPatternIsOneUlpAway := by
  intro f x v w _ hsign hv hw
  have hscale := descOf_scale_pos f
  have hfin := isFinite_of_realOf (descOf_emax_pos f) hv
  have hfin' := isFinite_of_realOf (descOf_emax_pos f) hw
  rw [realOf_eq_units hscale hfin, Option.some_inj] at hv
  rw [realOf_eq_units hscale hfin', ← hsign, unitsOf_succ hfin, Option.some_inj] at hw
  have hdiff : w - v = (-1) ^ (signOf (descOf f) x).toNat * ulpOf (descOf f) x := by
    rw [← hv, ← hw, ulpOf_eq_units hscale]
    push_cast
    ring
  rw [hdiff, abs_mul, abs_neg_one_pow, one_mul, abs_of_pos (zpow_pos two_pos _)]

end Sys2Proof.Machine
end

section
/-! PROOFS. Widening by the fields of its result, class by class (R60 to R64): the generic function with
its subnormal loop, the shift of BF16, and FP16 in numbers. -/

namespace Sys2Proof.Machine

/-! ### Fields and classes -/

theorem fieldsOf_eq_iff {F : FormatDesc} {x e m : Nat} {s : Bool} :
    fieldsOf F x = (s, e, m) ↔ signOf F x = s ∧ expOf F x = e ∧ manOf F x = m := by
  simp only [fieldsOf, Prod.mk.injEq]

/-- An FP32 pattern is determined by its fields (R51). -/
theorem eq_of_fieldsOf_fp32_eq {x y : Word32}
    (h : fieldsOf fp32 x.toNat = fieldsOf fp32 y.toNat) : x = y := by
  obtain ⟨hs, he, hm⟩ := fieldsOf_eq_iff.mp h
  apply BitVec.eq_of_toNat_eq
  rw [← sum_fields_eq (F := fp32) rfl x.isLt, hs, he, hm]
  exact sum_fields_eq rfl y.isLt

/-- A packed FP32 pattern fits its thirty-two bits, so its fields are the given ones (R51). -/
theorem fieldsOf_ofNat_pack (s : Bool) {e m : Nat} (he : e < 2 ^ 8) (hm : m < 2 ^ 23) :
    fieldsOf fp32 (BitVec.ofNat 32 (pack fp32 s e m)).toNat = (s, e, m) := by
  have hfit : pack fp32 s e m < 2 ^ 32 := by
    have hsum : pack fp32 s e m = s.toNat * 2 ^ 31 + e * 2 ^ 23 + m :=
      pack_eq_sum fp32 s e m rfl he hm
    have hs := Bool.toNat_le s
    omega
  rw [BitVec.toNat_ofNat, Nat.mod_eq_of_lt hfit]
  exact fieldsOf_eq_iff.mpr
    ⟨signOf_pack fp32 s e m rfl he hm, expOf_pack fp32 s e m rfl he hm,
      manOf_pack fp32 s e m rfl he hm⟩

theorem classOf_eq_zero_iff (F : FormatDesc) (x : Nat) :
    classOf F x = .zero ↔ expOf F x = 0 ∧ manOf F x = 0 := by
  rw [← isZero_iff, isZero, beq_iff_eq]

theorem classOf_eq_subnormal_iff (F : FormatDesc) (x : Nat) :
    classOf F x = .subnormal ↔ expOf F x = 0 ∧ manOf F x ≠ 0 := by
  unfold classOf
  split_ifs <;> simp_all

theorem classOf_eq_normal_iff (F : FormatDesc) (x : Nat) :
    classOf F x = .normal ↔ expOf F x ≠ 0 ∧ expOf F x ≠ emax F := by
  unfold classOf
  split_ifs <;> simp_all

theorem classOf_eq_infinity_iff {F : FormatDesc} (hF : 0 < emax F) (x : Nat) :
    classOf F x = .infinity ↔ expOf F x = emax F ∧ manOf F x = 0 := by
  rw [← isInf_iff F x hF, isInf, beq_iff_eq]

theorem classOf_eq_nan_iff {F : FormatDesc} (hF : 0 < emax F) (x : Nat) :
    classOf F x = .nan ↔ expOf F x = emax F ∧ manOf F x ≠ 0 := by
  rw [← isNan_iff F x hF, isNan, beq_iff_eq]

theorem narrowDesc_emax_pos (f : NarrowFmt) : 0 < emax (narrowDesc f) := by
  cases f <;> decide

/-! ### The subnormal arm -/

/-- The leading 1 of `m` moved up to bit `M` (R63). -/
theorem leadingOne_bounds {M m : Nat} (h0 : m ≠ 0) (hm : m < 2 ^ M) :
    2 ^ M ≤ m * 2 ^ (M - Nat.log2 m) ∧ m * 2 ^ (M - Nat.log2 m) < 2 * 2 ^ M := by
  have hlog : Nat.log2 m < M := (Nat.log2_lt h0).mpr hm
  have hpow : 2 ^ M = 2 ^ Nat.log2 m * 2 ^ (M - Nat.log2 m) := by
    rw [← Nat.pow_add, Nat.add_sub_cancel' hlog.le]
  have hlo : 2 ^ Nat.log2 m ≤ m := Nat.log2_self_le h0
  have hhi : m < 2 * 2 ^ Nat.log2 m := by rw [← Nat.pow_succ']; exact Nat.lt_log2_self
  constructor
  · calc 2 ^ M = 2 ^ Nat.log2 m * 2 ^ (M - Nat.log2 m) := hpow
      _ ≤ m * 2 ^ (M - Nat.log2 m) := Nat.mul_le_mul_right _ hlo
  · calc m * 2 ^ (M - Nat.log2 m) < 2 * 2 ^ Nat.log2 m * 2 ^ (M - Nat.log2 m) :=
        Nat.mul_lt_mul_of_pos_right hhi (Nat.two_pow_pos _)
      _ = 2 * 2 ^ M := by rw [Nat.mul_assoc, ← hpow]

/-- Bit `M` of a mantissa with nothing above it is its leading 1 exactly when the logarithm is `M`. -/
theorem testBit_iff_log2_eq {M m : Nat} (h0 : m ≠ 0) (hM : Nat.log2 m ≤ M) :
    m.testBit M = true ↔ Nat.log2 m = M := by
  constructor
  · intro hbit
    exact Nat.le_antisymm hM ((Nat.le_log2 h0).mpr (Nat.ge_two_pow_of_testBit hbit))
  · rintro rfl
    exact Nat.testBit_log2 h0

/-- The loop shifts the leading 1 from its index to bit `M`, one off the counter for each place
(R63). -/
theorem normalizeSub_eq {M turns m : Nat} (k : Int) (h0 : m ≠ 0) (hM : Nat.log2 m ≤ M)
    (hturns : M - Nat.log2 m ≤ turns) :
    normalizeSub M turns m k =
      (m * 2 ^ (M - Nat.log2 m), k - (M - Nat.log2 m : Nat)) := by
  induction turns generalizing m k with
  | zero =>
    have hdone : M - Nat.log2 m = 0 := by omega
    simp [normalizeSub, hdone]
  | succ turns ih =>
    rw [normalizeSub]
    split
    · next hbit =>
      have hlog := (testBit_iff_log2_eq h0 hM).mp hbit
      simp [hlog]
    · next hbit =>
      have hne : Nat.log2 m ≠ M := fun h => hbit ((testBit_iff_log2_eq h0 hM).mpr h)
      have hlog : Nat.log2 (m <<< 1) = Nat.log2 m + 1 := by
        rw [Nat.shiftLeft_eq, Nat.pow_one, Nat.mul_comm, Nat.log2_two_mul h0]
      obtain ⟨d, hd⟩ : ∃ d, M - Nat.log2 m = d + 1 := ⟨M - Nat.log2 m - 1, by omega⟩
      have hd' : M - Nat.log2 (m <<< 1) = d := by omega
      rw [ih (k - 1) (by rw [Nat.shiftLeft_eq]; omega) (by omega) (by omega), hd, hd',
        Nat.shiftLeft_eq, Nat.pow_one, Nat.pow_succ, Nat.mul_assoc, Nat.mul_comm 2]
      push_cast
      rw [sub_sub, Int.add_comm 1]

/-! ### The generic widening, class by class -/

/-- A narrow mantissa fits the top of the FP32 field. -/
theorem man_mul_lt (f : NarrowFmt) {m : Nat} (hm : m < 2 ^ (narrowDesc f).M) :
    m * 2 ^ (23 - (narrowDesc f).M) < 2 ^ 23 := by
  cases f <;> simp only [narrowDesc, fp16, bf16] at hm ⊢ <;> omega

/-- The exponent of a narrow normal, rebiased, is that of an FP32 normal. -/
theorem rebias_normal (f : NarrowFmt) {e : Nat} (he : e < 2 ^ (narrowDesc f).E)
    (hmax : e ≠ emax (narrowDesc f)) :
    ((e : Int) - (narrowDesc f).bias + 127).toNat = e + (127 - (narrowDesc f).bias) ∧
      e + (127 - (narrowDesc f).bias) < 255 := by
  cases f <;> simp only [narrowDesc, fp16, bf16, emax] at he hmax ⊢ <;> omega

/-- The fields of `widen_F(x)` of R60. A subnormal with its leading 1 at index `p` has the exponent
field `128 + p - (bias + M)` (R63). -/
def widenedFields (F : FormatDesc) (x : Nat) : Bool × Nat × Nat :=
  match classOf F x with
  | .zero => (signOf F x, 0, 0)
  | .subnormal => (signOf F x, 128 + Nat.log2 (manOf F x) - (F.bias + F.M),
      (manOf F x * 2 ^ (F.M - Nat.log2 (manOf F x)) - 2 ^ F.M) * 2 ^ (23 - F.M))
  | .normal => (signOf F x, expOf F x + (127 - F.bias), manOf F x * 2 ^ (23 - F.M))
  | .infinity => (signOf F x, 255, 0)
  | .nan => (signOf F x, 255, manOf F x * 2 ^ (23 - F.M))

/-- The subnormal arm of R60 with its loop run (R63). -/
theorem widenGeneric_of_subnormal (F : FormatDesc) {x : Word16} (he : expOf F x.toNat = 0)
    (hm : manOf F x.toNat ≠ 0) :
    widenGeneric F x = BitVec.ofNat 32 (pack fp32 (signOf F x.toNat)
      (128 + Nat.log2 (manOf F x.toNat) - (F.bias + F.M))
      ((manOf F x.toNat * 2 ^ (F.M - Nat.log2 (manOf F x.toNat)) - 2 ^ F.M) * 2 ^ (23 - F.M))) := by
  have hman := manOf_lt F x.toNat
  have hlog : Nat.log2 (manOf F x.toNat) < F.M := (Nat.log2_lt hm).mpr hman
  obtain ⟨hlo, hhi⟩ := leadingOne_bounds hm hman
  have hexp : (1 - (F.bias : Int) - (F.M - Nat.log2 (manOf F x.toNat) : Nat) + 127).toNat =
      128 + Nat.log2 (manOf F x.toNat) - (F.bias + F.M) := by omega
  have hlow : lowbits (manOf F x.toNat * 2 ^ (F.M - Nat.log2 (manOf F x.toNat))) F.M =
      manOf F x.toNat * 2 ^ (F.M - Nat.log2 (manOf F x.toNat)) - 2 ^ F.M := by
    rw [lowbits, Nat.mod_eq_sub_mod hlo, Nat.mod_eq_of_lt (by omega)]
  simp only [widenGeneric, he, hm, and_false, if_false, if_true,
    normalizeSub_eq (1 - (F.bias : Int)) hm hlog.le (Nat.sub_le _ _), hexp, hlow, Nat.shiftLeft_eq]

theorem fieldsOf_widenGeneric (f : NarrowFmt) (x : Word16) :
    fieldsOf fp32 (widenGeneric (narrowDesc f) x).toNat = widenedFields (narrowDesc f) x.toNat := by
  have hmax := narrowDesc_emax_pos f
  have hman := manOf_lt (narrowDesc f) x.toNat
  unfold widenedFields
  split
  · next hclass =>
    obtain ⟨he, hm⟩ := (classOf_eq_zero_iff _ _).mp hclass
    simp only [widenGeneric, he, hm, and_self, if_true]
    exact fieldsOf_ofNat_pack _ (by decide) (by decide)
  · next hclass =>
    obtain ⟨he, hm⟩ := (classOf_eq_subnormal_iff _ _).mp hclass
    obtain ⟨-, hhi⟩ := leadingOne_bounds hm hman
    have hlog := (Nat.log2_lt hm).mpr hman
    rw [widenGeneric_of_subnormal _ he hm]
    exact fieldsOf_ofNat_pack _ (by omega) (man_mul_lt f (by omega))
  · next hclass =>
    obtain ⟨h0, hne⟩ := (classOf_eq_normal_iff _ _).mp hclass
    obtain ⟨hexp, hlt⟩ := rebias_normal f (expOf_lt (narrowDesc f) x.toNat) hne
    simp only [widenGeneric, h0, hne, false_and, if_false, Nat.shiftLeft_eq, hexp]
    exact fieldsOf_ofNat_pack _ (by omega) (man_mul_lt f hman)
  · next hclass =>
    obtain ⟨he, hm⟩ := (classOf_eq_infinity_iff hmax _).mp hclass
    simp only [widenGeneric, he, hm, hmax.ne', false_and, and_self, if_true, if_false]
    exact fieldsOf_ofNat_pack _ (by decide) (by decide)
  · next hclass =>
    obtain ⟨he, hm⟩ := (classOf_eq_nan_iff hmax _).mp hclass
    simp only [widenGeneric, he, hm, hmax.ne', and_false, if_true, if_false, Nat.shiftLeft_eq]
    exact fieldsOf_ofNat_pack _ (by decide) (man_mul_lt f hman)

/-! ### BF16: the shift -/

/-- The shift moves every field of a BF16 pattern to its place in FP32 (R62). -/
theorem fieldsOf_widenBf16 (x : Word16) :
    fieldsOf fp32 (widenBf16 x).toNat =
      (signOf bf16 x.toNat, expOf bf16 x.toNat, manOf bf16 x.toNat * 2 ^ 16) := by
  have hshift : (widenBf16 x).toNat = x.toNat * 2 ^ 16 := by
    rw [widenBf16, BitVec.toNat_append, Nat.shiftLeft_eq]
    exact Nat.or_zero _
  refine fieldsOf_eq_iff.mpr ⟨?_, ?_, ?_⟩
  · rw [hshift]
    show (x.toNat * 2 ^ 16).testBit 31 = x.toNat.testBit 15
    rw [Nat.testBit_mul_two_pow]
    rfl
  · rw [expOf_eq_div_mod, expOf_eq_div_mod, hshift]
    show x.toNat * 2 ^ 16 / 2 ^ 23 % 2 ^ 8 = x.toNat / 2 ^ 7 % 2 ^ 8
    omega
  · rw [hshift]
    show x.toNat * 2 ^ 16 % 2 ^ 23 = x.toNat % 2 ^ 7 * 2 ^ 16
    omega

theorem classOf_widenBf16 (x : Word16) :
    classOf fp32 (widenBf16 x).toNat = classOf bf16 x.toNat := by
  obtain ⟨-, he, hm⟩ := fieldsOf_eq_iff.mp (fieldsOf_widenBf16 x)
  have hman : manOf fp32 (widenBf16 x).toNat = 0 ↔ manOf bf16 x.toNat = 0 := by omega
  have hmax : emax fp32 = emax bf16 := rfl
  simp only [classOf, he, hman, hmax]

/-- Settles O32: off the subnormals both have the fields of the BF16 pattern, moved up. -/
theorem genericBf16WideningIsTheShift : Obligations.GenericBf16WideningIsTheShift := by
  intro x hsub
  apply eq_of_fieldsOf_fp32_eq
  have hgeneric : fieldsOf fp32 (widenGeneric bf16 x).toNat = widenedFields bf16 x.toNat :=
    fieldsOf_widenGeneric .bf16 x
  rw [hgeneric, fieldsOf_widenBf16, widenedFields]
  split
  · next hclass =>
    obtain ⟨he, hm⟩ := (classOf_eq_zero_iff _ _).mp hclass
    rw [he, hm, Nat.zero_mul]
  · next hclass => exact absurd hclass hsub
  · rfl
  · next hclass =>
    obtain ⟨he, hm⟩ := (classOf_eq_infinity_iff (by decide) _).mp hclass
    rw [he, hm]
    rfl
  · next hclass =>
    obtain ⟨he, -⟩ := (classOf_eq_nan_iff (by decide) _).mp hclass
    rw [he]
    rfl

/-! ### FP16: the generic widening -/

/-- The fields of the result of WIDEN.FP16 in numbers (R61, R63). -/
def widenedFp16Fields (x : Nat) : Bool × Nat × Nat :=
  match classOf fp16 x with
  | .zero => (signOf fp16 x, 0, 0)
  | .subnormal => (signOf fp16 x, 103 + Nat.log2 (manOf fp16 x),
      (manOf fp16 x * 2 ^ (10 - Nat.log2 (manOf fp16 x)) - 2 ^ 10) * 2 ^ 13)
  | .normal => (signOf fp16 x, expOf fp16 x + 112, manOf fp16 x * 2 ^ 13)
  | .infinity => (signOf fp16 x, 255, 0)
  | .nan => (signOf fp16 x, 255, manOf fp16 x * 2 ^ 13)

theorem fieldsOf_widenFp16 (x : Word16) :
    fieldsOf fp32 (widenFp16 x).toNat = widenedFp16Fields x.toNat := by
  have hexp : 128 + Nat.log2 (manOf fp16 x.toNat) - (15 + 10) =
      103 + Nat.log2 (manOf fp16 x.toNat) := by omega
  have hfields : fieldsOf fp32 (widenFp16 x).toNat = widenedFields fp16 x.toNat :=
    fieldsOf_widenGeneric .fp16 x
  rw [hfields, widenedFields, widenedFp16Fields, ← hexp]
  cases classOf fp16 x.toNat <;> rfl

theorem signOf_widenFp16 (x : Word16) :
    signOf fp32 (widenFp16 x).toNat = signOf fp16 x.toNat := by
  have hfields := fieldsOf_widenFp16 x
  unfold widenedFp16Fields at hfields
  split at hfields <;> exact (fieldsOf_eq_iff.mp hfields).1

/-- FP32 has a normal for every FP16 subnormal; the other classes stay (R60, R63). -/
theorem classOf_widenFp16 (x : Word16) :
    classOf fp32 (widenFp16 x).toNat =
      if classOf fp16 x.toNat = .subnormal then .normal else classOf fp16 x.toNat := by
  have hfields := fieldsOf_widenFp16 x
  have hmax : emax fp32 = 255 := rfl
  rw [widenedFp16Fields] at hfields
  cases hclass : classOf fp16 x.toNat <;> rw [hclass] at hfields <;>
    obtain ⟨-, he, hm⟩ := fieldsOf_eq_iff.mp hfields
  case zero => exact (classOf_eq_zero_iff _ _).mpr ⟨he, hm⟩
  case subnormal =>
    obtain ⟨-, hman⟩ := (classOf_eq_subnormal_iff _ _).mp hclass
    have hlog : Nat.log2 (manOf fp16 x.toNat) < 10 := (Nat.log2_lt hman).mpr (manOf_lt fp16 _)
    exact (classOf_eq_normal_iff _ _).mpr (by omega)
  case normal =>
    have hexp : expOf fp16 x.toNat < 2 ^ 5 := expOf_lt fp16 x.toNat
    exact (classOf_eq_normal_iff _ _).mpr (by omega)
  case infinity => exact (classOf_eq_infinity_iff (by decide) _).mpr ⟨he, hm⟩
  case nan =>
    obtain ⟨-, hman⟩ := (classOf_eq_nan_iff (by decide) _).mp hclass
    exact (classOf_eq_nan_iff (by decide) _).mpr ⟨he, by omega⟩

theorem widenFp16_toNat_mod (x : Word16) : (widenFp16 x).toNat % 2 ^ 13 = 0 := by
  have hfields := fieldsOf_widenFp16 x
  have hman : manOf fp32 (widenFp16 x).toNat % 2 ^ 13 = 0 := by
    unfold widenedFp16Fields at hfields
    split at hfields <;> obtain ⟨-, -, hm⟩ := fieldsOf_eq_iff.mp hfields <;> omega
  have hmod : (widenFp16 x).toNat % 2 ^ 23 % 2 ^ 13 = 0 := hman
  omega

/-- Settles O23: `exec` is `respond`, and its result has the fields of each class. -/
theorem widenFp16Completes : Obligations.WidenFp16Completes := by
  refine ⟨fun v s => ⟨widenFp16 (low16 s.req.a), _, rfl, ?_, fieldsOf_widenFp16 _⟩,
    by decide +kernel, fun x => ⟨?_, widenFp16_toNat_mod x⟩⟩
  · rw [exec_eq_respond, respond_eq]
    rfl
  · rw [classOf_widenFp16]
    split
    · decide
    · assumption

end Sys2Proof.Machine
end

section
/-! PROOFS. What widening keeps in both narrow formats: the sign, the class of every zero, infinity and
NaN, and the value (R65 to R67). -/

namespace Sys2Proof.Machine

theorem signOf_widen (f : NarrowFmt) (x : Word16) :
    signOf fp32 (widen f x).toNat = signOf (narrowDesc f) x.toNat := by
  cases f
  case fp16 => exact signOf_widenFp16 x
  case bf16 => exact (fieldsOf_eq_iff.mp (fieldsOf_widenBf16 x)).1

/-- A class that an FP16 subnormal neither has nor gets is kept both ways (R60). -/
theorem classOf_widen_beq (f : NarrowFmt) (x : Word16) {c : FpClass} (hsub : c ≠ .subnormal)
    (hnormal : c ≠ .normal) :
    (classOf fp32 (widen f x).toNat == c) = (classOf (narrowDesc f) x.toNat == c) := by
  cases f
  case fp16 =>
    simp only [widen, narrowDesc, classOf_widenFp16]
    split
    · next h => rw [h, beq_false_of_ne hsub.symm, beq_false_of_ne hnormal.symm]
    · rfl
  case bf16 => exact congrArg (· == c) (classOf_widenBf16 x)

theorem isZero_widen (f : NarrowFmt) (x : Word16) :
    isZero fp32 (widen f x).toNat = isZero (narrowDesc f) x.toNat :=
  classOf_widen_beq f x (by decide) (by decide)

theorem isInf_widen (f : NarrowFmt) (x : Word16) :
    isInf fp32 (widen f x).toNat = isInf (narrowDesc f) x.toNat :=
  classOf_widen_beq f x (by decide) (by decide)

theorem isNan_widen (f : NarrowFmt) (x : Word16) :
    isNan fp32 (widen f x).toNat = isNan (narrowDesc f) x.toNat :=
  classOf_widen_beq f x (by decide) (by decide)

/-! ### NaN payloads -/

theorem fieldsOf_widen_of_nan (f : NarrowFmt) {x : Word16}
    (h : classOf (narrowDesc f) x.toNat = .nan) :
    fieldsOf fp32 (widen f x).toNat = (signOf (narrowDesc f) x.toNat, 255,
      manOf (narrowDesc f) x.toNat * 2 ^ (23 - (narrowDesc f).M)) := by
  cases f
  case fp16 =>
    have hfields : fieldsOf fp32 (widen .fp16 x).toNat = widenedFp16Fields x.toNat :=
      fieldsOf_widenFp16 x
    rw [hfields, widenedFp16Fields, show classOf fp16 x.toNat = .nan from h]
    rfl
  case bf16 =>
    obtain ⟨he, -⟩ := (classOf_eq_nan_iff (by decide) _).mp h
    have hexp : expOf bf16 x.toNat = 255 := he
    exact (fieldsOf_widenBf16 x).trans (by rw [hexp]; rfl)

/-- Settles O31: the widened mantissa is that of a NaN, so not zero. -/
theorem widenedNanKeepsItsPayload : Obligations.WidenedNanKeepsItsPayload := by
  intro f x hnan
  have hnan32 := (isNan_widen f x).trans hnan
  exact ⟨fieldsOf_widen_of_nan f (by simpa [isNan] using hnan),
    ((isNan_iff fp32 _ (by decide)).mp hnan32).2⟩

/-! ### Values -/

theorem isFinite_of_not_inf_of_not_nan {F : FormatDesc} (hF : 0 < emax F) {x : Nat}
    (hinf : isInf F x = false) (hnan : isNan F x = false) : isFinite F x = true := by
  rw [isFinite_iff]
  intro he
  by_cases hm : manOf F x = 0
  · simp [(isInf_iff F x hF).mpr ⟨he, hm⟩] at hinf
  · simp [(isNan_iff F x hF).mpr ⟨he, hm⟩] at hnan

/-- The value of a finite pattern other than a zero, subnormal or normal (R53). -/
theorem valOf_eq_units {F : FormatDesc} (hF : 0 < F.bias + F.M) {x : Nat}
    (hfin : isFinite F x = true) (hzero : isZero F x = false) :
    valOf F x =
      some (.real ((-1) ^ (signOf F x).toNat * (unitsOf F x : ℚ) / 2 ^ unitScale F)) := by
  have hreal := realOf_eq_units hF hfin
  rw [realOf_eq] at hreal
  cases hclass : classOf F x <;> simp only [hclass, valOf] at hreal ⊢
  case zero => simp [isZero, hclass] at hzero
  case subnormal => rw [Option.some.inj hreal]
  case normal => rw [Option.some.inj hreal]
  case infinity => cases hreal
  case nan => cases hreal

/-- The normal that a subnormal becomes has the mantissa's magnitude (R63). -/
theorem units_of_normalized_subnormal {m : Nat} (h0 : m ≠ 0) (hm : m < 2 ^ 10) :
    (2 ^ 23 + (m * 2 ^ (10 - Nat.log2 m) - 2 ^ 10) * 2 ^ 13) * 2 ^ (102 + Nat.log2 m) =
      m * 2 ^ 125 := by
  have hlog : Nat.log2 m < 10 := (Nat.log2_lt h0).mpr hm
  obtain ⟨hlo, -⟩ := leadingOne_bounds h0 hm
  have hlead : 2 ^ 23 + (m * 2 ^ (10 - Nat.log2 m) - 2 ^ 10) * 2 ^ 13 =
      m * 2 ^ (10 - Nat.log2 m) * 2 ^ 13 := by omega
  have hexp : 10 - Nat.log2 m + (13 + (102 + Nat.log2 m)) = 125 := by omega
  rw [hlead, Nat.mul_assoc, Nat.mul_assoc, ← Nat.pow_add, ← Nat.pow_add, hexp]

/-- An FP16 unit is `2 ^ 125` FP32 units, and a subnormal is a normal of as many (R63, R66). -/
theorem unitsOf_widenFp16 {x : Word16} (hfin : isFinite fp16 x.toNat = true) :
    unitsOf fp32 (widenFp16 x).toNat = unitsOf fp16 x.toNat * 2 ^ 125 := by
  have hne := (isFinite_iff _ _).mp hfin
  have hfields := fieldsOf_widenFp16 x
  rw [widenedFp16Fields] at hfields
  cases hclass : classOf fp16 x.toNat <;> rw [hclass] at hfields <;>
    obtain ⟨-, he, hm⟩ := fieldsOf_eq_iff.mp hfields
  case zero =>
    obtain ⟨he16, hm16⟩ := (classOf_eq_zero_iff _ _).mp hclass
    rw [unitsOf_of_exp_zero he, unitsOf_of_exp_zero he16, hm, hm16, Nat.zero_mul]
  case subnormal =>
    obtain ⟨he16, hm16⟩ := (classOf_eq_subnormal_iff _ _).mp hclass
    rw [unitsOf_of_exp_zero he16,
      unitsOf_of_exp_succ (k := 102 + Nat.log2 (manOf fp16 x.toNat)) (by omega), hm]
    exact units_of_normalized_subnormal hm16 (manOf_lt fp16 x.toNat)
  case normal =>
    obtain ⟨h0, -⟩ := (classOf_eq_normal_iff _ _).mp hclass
    obtain ⟨k, hk⟩ := Nat.exists_eq_succ_of_ne_zero h0
    rw [unitsOf_of_exp_succ hk, unitsOf_of_exp_succ (k := k + 112) (by omega), hm]
    simp only [fp16, fp32]
    ring
  case infinity => exact absurd ((classOf_eq_infinity_iff (by decide) _).mp hclass).1 hne
  case nan => exact absurd ((classOf_eq_nan_iff (by decide) _).mp hclass).1 hne

/-- A BF16 unit is `2 ^ 16` FP32 units, and the exponents agree (R62, R66). -/
theorem unitsOf_widenBf16 (x : Word16) :
    unitsOf fp32 (widenBf16 x).toNat = unitsOf bf16 x.toNat * 2 ^ 16 := by
  obtain ⟨-, he, hm⟩ := fieldsOf_eq_iff.mp (fieldsOf_widenBf16 x)
  cases hexp : expOf bf16 x.toNat with
  | zero => rw [unitsOf_of_exp_zero hexp, unitsOf_of_exp_zero (he.trans hexp), hm]
  | succ k =>
    rw [unitsOf_of_exp_succ hexp, unitsOf_of_exp_succ (he.trans hexp), hm]
    simp only [bf16, fp32]
    ring

theorem units_mul_two_pow_div (u d scale : Nat) :
    ((u * 2 ^ d : Nat) : ℚ) / 2 ^ (d + scale) = u / 2 ^ scale := by
  push_cast
  rw [pow_add, mul_comm, mul_div_mul_left _ _ (by positivity)]

/-- The magnitude is kept, in the units of both formats (R66). -/
theorem unitsOf_widen_div (f : NarrowFmt) {x : Word16}
    (hfin : isFinite (narrowDesc f) x.toNat = true) :
    (unitsOf fp32 (widen f x).toNat : ℚ) / 2 ^ unitScale fp32 =
      unitsOf (narrowDesc f) x.toNat / 2 ^ unitScale (narrowDesc f) := by
  cases f
  case fp16 =>
    rw [widen, unitsOf_widenFp16 hfin]
    exact units_mul_two_pow_div _ 125 (unitScale fp16)
  case bf16 =>
    rw [widen, unitsOf_widenBf16]
    exact units_mul_two_pow_div _ 16 (unitScale bf16)

theorem valOf_widen (f : NarrowFmt) (x : Word16) :
    valOf fp32 (widen f x).toNat = valOf (narrowDesc f) x.toNat := by
  cases hnan : isNan (narrowDesc f) x.toNat with
  | true => rw [valOf_of_isNan hnan, valOf_of_isNan ((isNan_widen f x).trans hnan)]
  | false =>
  cases hinf : isInf (narrowDesc f) x.toNat with
  | true =>
    rw [valOf_of_isInf hinf, valOf_of_isInf ((isInf_widen f x).trans hinf), signOf_widen]
  | false =>
  cases hzero : isZero (narrowDesc f) x.toNat with
  | true =>
    rw [valOf_of_isZero hzero, valOf_of_isZero ((isZero_widen f x).trans hzero), signOf_widen]
  | false =>
    have hfin := isFinite_of_not_inf_of_not_nan (narrowDesc_emax_pos f) hinf hnan
    have hfin32 := isFinite_of_not_inf_of_not_nan (by decide)
      ((isInf_widen f x).trans hinf) ((isNan_widen f x).trans hnan)
    rw [valOf_eq_units (by cases f <;> decide) hfin hzero,
      valOf_eq_units (by decide) hfin32 ((isZero_widen f x).trans hzero), signOf_widen,
      mul_div_assoc, mul_div_assoc, unitsOf_widen_div f hfin]

/-- Settles O30: value, sign and the classes without a real value are all kept. -/
theorem wideningIsExact : Obligations.WideningIsExact :=
  fun f x => ⟨valOf_widen f x, signOf_widen f x, isInf_widen f x, isNan_widen f x⟩

end Sys2Proof.Machine
end

section
/-! PROOFS. Both directions of the converter keep the sign bit (R67, R93). -/

namespace Sys2Proof.Machine

theorem msb_widen (f : NarrowFmt) (x : Word16) : (widen f x).msb = x.msb := by
  rw [← signOf_fp32_eq_msb, signOf_widen, signOf_narrow_eq_msb]

/-- The sign of a packed narrow pattern is its top bit (R51). -/
theorem msb_ofNat_pack (f : NarrowFmt) (s : Bool) {e m : Nat} (he : e < 2 ^ (narrowDesc f).E)
    (hm : m < 2 ^ (narrowDesc f).M) : (BitVec.ofNat 16 (pack (narrowDesc f) s e m)).msb = s := by
  obtain ⟨hW, h16, -⟩ := narrowDesc_width f
  rw [BitVec.msb_eq_getLsbD_last, BitVec.getLsbD_ofNat]
  have hsign := signOf_pack (narrowDesc f) s e m hW he hm
  rw [signOf, h16] at hsign
  simpa using hsign

/-- A rounded subnormal mantissa is at most `2 ^ M` (R87). -/
theorem rneShift_underflow_le {M sh m : Nat} (hM : M ≤ 23) (hsh : 1 ≤ sh) (hm : m < 2 ^ 23) :
    rneShift (2 ^ 23 + m) (23 - M + sh) ≤ 2 ^ M := by
  obtain ⟨-, hle⟩ := rneShift_bounds (2 ^ 23 + m) (23 - M + sh)
  have hpow : 2 ^ 24 = 2 ^ (23 - M + 1) * 2 ^ M := by
    rw [← Nat.pow_add]
    congr 1
    omega
  have hdiv : (2 ^ 23 + m) / 2 ^ (23 - M + 1) < 2 ^ M :=
    Nat.div_lt_of_lt_mul (hpow ▸ (by omega))
  have hmono : (2 ^ 23 + m) / 2 ^ (23 - M + sh) ≤ (2 ^ 23 + m) / 2 ^ (23 - M + 1) :=
    Nat.div_le_div_left (Nat.pow_le_pow_right two_pos (by omega)) (Nat.two_pow_pos _)
  omega

theorem msb_ofNat_narrowNormal (f : NarrowFmt) (s : Bool) {e m : Nat}
    (he : e < emax (narrowDesc f)) (hm : m < 2 ^ 23) :
    (BitVec.ofNat 16 (narrowNormal (narrowDesc f) s e m)).msb = s := by
  obtain ⟨-, -, hM⟩ := narrowDesc_width f
  have hround := rneShift_man_le hM hm
  have hemax := emax_lt (narrowDesc f)
  simp only [narrowNormal]
  split
  · split
    · exact msb_ofNat_pack f s hemax (Nat.two_pow_pos _)
    · exact msb_ofNat_pack f s (Nat.lt_of_le_of_lt he hemax) (Nat.two_pow_pos _)
  · next hne => exact msb_ofNat_pack f s (he.trans hemax) (Nat.lt_of_le_of_ne hround hne)

theorem msb_ofNat_narrowUnderflow (f : NarrowFmt) (s : Bool) {sh m : Nat} (hsh : 1 ≤ sh)
    (hm : m < 2 ^ 23) :
    (BitVec.ofNat 16 (narrowUnderflow (narrowDesc f) s sh m)).msb = s := by
  obtain ⟨-, -, hM⟩ := narrowDesc_width f
  have hround := rneShift_underflow_le hM hsh hm
  have hone : 1 < 2 ^ (narrowDesc f).E := by cases f <;> decide
  simp only [narrowUnderflow]
  split
  · exact msb_ofNat_pack f s (Nat.two_pow_pos _) (Nat.two_pow_pos _)
  split
  · exact msb_ofNat_pack f s hone (Nat.two_pow_pos _)
  · next hne => exact msb_ofNat_pack f s (Nat.two_pow_pos _) (Nat.lt_of_le_of_ne hround hne)

/-- The truncated NaN mantissa, forced to 1 where it would be 0, fits its field (R83). -/
theorem forced_man_lt (f : NarrowFmt) {m : Nat} (hm : m < 2 ^ 23) :
    (if m >>> (23 - (narrowDesc f).M) = 0 then 1 else m >>> (23 - (narrowDesc f).M)) <
      2 ^ (narrowDesc f).M := by
  rw [Nat.shiftRight_eq_div_pow]
  split
  · cases f <;> decide
  · cases f <;> simp only [narrowDesc, fp16, bf16] <;> omega

theorem msb_narrow (f : NarrowFmt) (x : Word32) : (narrow f x).msb = x.msb := by
  have hman : manOf fp32 x.toNat < 2 ^ 23 := manOf_lt fp32 x.toNat
  have hemax := emax_lt (narrowDesc f)
  rw [narrow_eq_narrowGeneric, ← signOf_fp32_eq_msb]
  simp only [narrowGeneric]
  split
  · exact msb_ofNat_pack f _ (Nat.two_pow_pos _) (Nat.two_pow_pos _)
  split
  · exact msb_ofNat_pack f _ hemax (Nat.two_pow_pos _)
  split
  · exact msb_ofNat_pack f _ hemax (forced_man_lt f hman)
  split
  · exact msb_ofNat_pack f _ hemax (Nat.two_pow_pos _)
  split
  · exact msb_ofNat_narrowNormal f _ (by omega) hman
  · exact msb_ofNat_narrowUnderflow f _ (by omega) hman

/-- Settles O41: every arm of either direction packs the sign of its input. -/
theorem conversionsKeepTheSign : Obligations.ConversionsKeepTheSign :=
  ⟨msb_widen, msb_narrow⟩

end Sys2Proof.Machine
end

section
/-! PROOFS. The rounder: its three groups of bits as quotients and remainders, its increment, and the
exact rounding it computes (R71 to R75). -/

namespace Sys2Proof.Machine

/-! ### The bits of the rounder -/

theorem rneKept_eq_div (v n : Nat) : rneKept v n = v / 2 ^ n := Nat.shiftRight_eq_div_pow v n

theorem rneRound_eq_div_mod (v n : Nat) : rneRound v n = v / 2 ^ (n - 1) % 2 := by
  rw [rneRound, Nat.shiftRight_eq_div_pow, Nat.and_one_is_mod]

theorem rneSticky_eq_ite (v n : Nat) : rneSticky v n = if v % 2 ^ (n - 1) ≠ 0 then 1 else 0 := rfl

@[simp] theorem rneShift_zero (v : Nat) : rneShift v 0 = v := if_pos rfl

theorem rneShift_eq_kept_add_inc (v : Nat) {n : Nat} (hn : 0 < n) :
    rneShift v n =
      rneKept v n + rneInc (rneRound v n) (rneSticky v n) (rneKept v n % 2) := by
  rw [rneShift, if_neg hn.ne', Nat.and_one_is_mod]

/-- The increment is a single bit, whatever the sticky and least significant bits are (R72). -/
theorem rneInc_rneRound_le_one (v n sticky lsb : Nat) : rneInc (rneRound v n) sticky lsb ≤ 1 :=
  Nat.and_le_left.trans Nat.and_le_right

/-- The kept bits of a `w`-bit value fill `w - n` bits (R73). -/
theorem rneKept_lt {v w n : Nat} (hv : v < 2 ^ w) (hnw : n ≤ w) : rneKept v n < 2 ^ (w - n) := by
  rw [rneKept_eq_div]
  exact Nat.div_lt_of_lt_mul (by rwa [← Nat.pow_add, Nat.add_sub_cancel' hnw])

/-- Settles O34: the table is finite. -/
theorem incrementTruthTable : Obligations.IncrementTruthTable := by
  unfold Obligations.IncrementTruthTable
  decide

/-- Settles O36: the kept bits are below `2 ^ (w - n)` and the increment is at most 1, so that the
carry needs both at their largest. -/
theorem rounderCarriesOut : Obligations.RounderCarriesOut := by
  intro v w n hv hn hnw
  have hkept := rneKept_lt hv hnw
  have hinc := rneInc_rneRound_le_one v n (rneSticky v n) (rneKept v n % 2)
  rw [rneShift_eq_kept_add_inc v hn]
  omega

/-! ### Shift amounts at the boundary of the field -/

/-- A shift by one rounds up only the odd values above an odd quotient: every discarded bit is a
tie (R74). -/
theorem rneShift_one (v : Nat) : rneShift v 1 = v / 2 + if v % 4 = 3 then 1 else 0 := by
  rw [rneShift_cases v 1 one_pos, Nat.pow_one]
  split_ifs <;> omega

/-- A shift by the whole width leaves 1 strictly above half of the range: the tie goes to the even
quotient 0 (R74). -/
theorem rneShift_width {v w : Nat} (hv : v < 2 ^ w) (hw : 0 < w) :
    rneShift v w = if 2 ^ (w - 1) < v then 1 else 0 := by
  have hhalf : 2 * 2 ^ (w - 1) = 2 ^ w := mul_pow_sub_one hw.ne' 2
  rw [rneShift_cases v w hw, Nat.mod_eq_of_lt hv, Nat.div_eq_of_lt hv]
  split_ifs <;> omega

theorem rounder_bits_one (v : Nat) :
    rneKept v 1 = v / 2 ∧ rneRound v 1 = v % 2 ∧ rneSticky v 1 = 0 := by
  rw [rneKept_eq_div, rneRound_eq_div_mod, rneSticky_eq_ite]
  simp [Nat.mod_one]

/-- At a shift by the whole width the top bit is the round bit, and the ones below it are sticky (R74). -/
theorem rounder_bits_width {v w : Nat} (hv : v < 2 ^ w) (hw : 0 < w) :
    rneKept v w = 0 ∧ rneRound v w = v / 2 ^ (w - 1) ∧
      rneSticky v w = if v % 2 ^ (w - 1) ≠ 0 then 1 else 0 := by
  have htop : v / 2 ^ (w - 1) < 2 :=
    Nat.div_lt_of_lt_mul (by rwa [pow_sub_one_mul hw.ne'])
  rw [rneKept_eq_div, rneRound_eq_div_mod]
  exact ⟨Nat.div_eq_of_lt hv, Nat.mod_eq_of_lt htop, rneSticky_eq_ite v w⟩

/-- Below half of the last place all bits are sticky (R74). -/
theorem rounder_bits_of_lt {v n : Nat} (h : v < 2 ^ (n - 1)) :
    rneKept v n = 0 ∧ rneRound v n = 0 ∧ rneSticky v n = if v ≠ 0 then 1 else 0 := by
  have hv : v < 2 ^ n := h.trans_le (Nat.pow_le_pow_right two_pos (Nat.sub_le n 1))
  rw [rneKept_eq_div, rneRound_eq_div_mod, rneSticky_eq_ite, Nat.div_eq_of_lt hv,
    Nat.div_eq_of_lt h, Nat.mod_eq_of_lt h]
  exact ⟨rfl, rfl, rfl⟩

/-- With no kept bit and no round bit there is nothing to add (R74). -/
theorem rneShift_eq_zero_of_lt {v n : Nat} (hn : 0 < n) (h : v < 2 ^ (n - 1)) :
    rneShift v n = 0 := by
  obtain ⟨hkept, hround, -⟩ := rounder_bits_of_lt h
  rw [rneShift_eq_kept_add_inc v hn, hkept, hround, rneInc, Nat.zero_and]

/-- Settles O35: one row of R74 after the other. -/
theorem rounderAtTheFieldBoundary : Obligations.RounderAtTheFieldBoundary := by
  intro v w n hv
  refine ⟨rneShift_zero v, ?one, fun hw => ?width, fun hwn => ?beyond⟩
  case one =>
    obtain ⟨hkept, hround, hsticky⟩ := rounder_bits_one v
    exact ⟨hkept, hround, hsticky, rneShift_one v⟩
  case width =>
    obtain ⟨hkept, hround, hsticky⟩ := rounder_bits_width hv hw
    exact ⟨hkept, hround, hsticky, rneShift_width hv hw⟩
  case beyond =>
    have hlt : v < 2 ^ (n - 1) := hv.trans_le (Nat.pow_le_pow_right two_pos (by omega))
    obtain ⟨hkept, hround, hsticky⟩ := rounder_bits_of_lt hlt
    exact ⟨hkept, hround, hsticky, rneShift_eq_zero_of_lt (by omega) hlt⟩

/-! ### The exact rounding -/

/-- `RNE_int` of a quotient of naturals, by the remainder of the division: it decides on which side of
the half the quotient lies (R9). -/
theorem rneInt_natCast_div (v : Nat) {d : Nat} (hd : 0 < d) :
    rneInt ((v : ℚ) / d) =
      ((if 2 * (v % d) < d then v / d
        else if d < 2 * (v % d) then v / d + 1
        else v / d + v / d % 2 : Nat) : Int) := by
  have hd' : (0 : ℚ) < d := Nat.cast_pos.mpr hd
  have hfloor : ⌊(v : ℚ) / d⌋ = ((v / d : Nat) : Int) := Rat.floor_natCast_div_natCast v d
  have hfract : (v : ℚ) / d - ⌊(v : ℚ) / d⌋ = ((v % d : Nat) : ℚ) / d :=
    Int.fract_div_natCast_eq_div_natCast_mod
  have hbelow : ((v % d : Nat) : ℚ) / d < 1 / 2 ↔ 2 * (v % d) < d := by
    rw [div_lt_div_iff₀ hd' two_pos, one_mul, mul_comm]
    exact_mod_cast Iff.rfl
  have habove : 1 / 2 < ((v % d : Nat) : ℚ) / d ↔ d < 2 * (v % d) := by
    rw [div_lt_div_iff₀ two_pos hd', one_mul, mul_comm]
    exact_mod_cast Iff.rfl
  rw [rneInt, hfract, hfloor]
  simp only [hbelow, habove]
  split_ifs <;> omega

/-- The rounder and `RNE_int` make the same decision on the discarded bits (R75). -/
theorem rneShift_eq_rneInt (v n : Nat) : (rneShift v n : Int) = rneInt ((v : ℚ) / 2 ^ n) := by
  have hint := rneInt_natCast_div v (Nat.two_pow_pos n)
  rw [Nat.cast_pow, Nat.cast_ofNat] at hint
  rw [hint]
  rcases Nat.eq_zero_or_pos n with rfl | hn
  · simp [Nat.mod_one]
  · rw [rneShift_cases v n hn]

/-- Settles O33: both sides, by the remainder of the division by `2 ^ n`. -/
theorem rneShiftRoundsToNearestEven : Obligations.RneShiftRoundsToNearestEven := rneShift_eq_rneInt

end Sys2Proof.Machine
end

section
/-! PROOFS. The rounder on exact multiples, on scaled values and on ordered values (R71, R75). -/

namespace Sys2Proof.Machine

/-- An exact multiple of the last kept place has nothing to round (R71). -/
theorem rneShift_mul_two_pow_self (v n : Nat) : rneShift (v * 2 ^ n) n = v := by
  rcases Nat.eq_zero_or_pos n with rfl | hn
  · simp
  · rw [rneShift_cases _ n hn, Nat.mul_mod_left, Nat.mul_div_cancel _ (Nat.two_pow_pos n), if_pos]
    exact Nat.two_pow_pos n

/-- Zeros below a value move its rounding place up with it: the quotient is the same (R75). -/
theorem rneShift_mul_two_pow (v k n : Nat) : rneShift (v * 2 ^ k) (k + n) = rneShift v n := by
  have hquot : ((v * 2 ^ k : Nat) : ℚ) / 2 ^ (k + n) = v / 2 ^ n := units_mul_two_pow_div v k n
  have hint : (rneShift (v * 2 ^ k) (k + n) : Int) = rneShift v n := by
    rw [rneShift_eq_rneInt, rneShift_eq_rneInt, hquot]
  exact_mod_cast hint

/-- Rounding keeps the order: equal quotients are decided by the remainders, and unequal ones differ
by at least the 1 that rounding can add (R75, R94). -/
theorem rneShift_mono {v w : Nat} (h : v ≤ w) (n : Nat) : rneShift v n ≤ rneShift w n := by
  rcases Nat.eq_zero_or_pos n with rfl | hn
  · simpa using h
  rcases Nat.lt_or_eq_of_le (Nat.div_le_div_right (c := 2 ^ n) h) with hlt | heq
  · calc rneShift v n ≤ v / 2 ^ n + 1 := (rneShift_bounds v n).2
      _ ≤ w / 2 ^ n := hlt
      _ ≤ rneShift w n := (rneShift_bounds w n).1
  · have hv := Nat.div_add_mod v (2 ^ n)
    have hw := Nat.div_add_mod w (2 ^ n)
    rw [heq] at hv
    rw [rneShift_cases v n hn, rneShift_cases w n hn, heq]
    split_ifs <;> omega

/-- Rounding off sixteen bits is one addition and a shift (R90). -/
theorem rneShift_sixteen (v : Nat) :
    rneShift v 16 = (v + 0x7FFF + v / 2 ^ 16 % 2) / 2 ^ 16 := by
  rw [rneShift_cases v 16 (by decide)]
  split_ifs <;> omega

end Sys2Proof.Machine
end

section
/-! PROOFS. Narrowing by its magnitude: the special classes (R81 to R83) and the arms of an FP32
normal (R84 to R87). -/

namespace Sys2Proof.Machine

/-! ### Magnitudes of narrow patterns -/

/-- The fields of a narrow pattern that is given as their sum (R51). -/
theorem fieldsOf_narrow_sum (f : NarrowFmt) (s : Bool) {e m : Nat} (he : e < 2 ^ (narrowDesc f).E)
    (hm : m < 2 ^ (narrowDesc f).M) :
    fieldsOf (narrowDesc f) (s.toNat * 2 ^ 15 + (e * 2 ^ (narrowDesc f).M + m)) = (s, e, m) := by
  obtain ⟨hW, h16, -⟩ := narrowDesc_width f
  have hpack : pack (narrowDesc f) s e m =
      s.toNat * 2 ^ 15 + (e * 2 ^ (narrowDesc f).M + m) := by
    rw [pack_eq_sum _ s e m hW he hm, h16, Nat.add_assoc]
  rw [← hpack]
  exact fieldsOf_eq_iff.mpr
    ⟨signOf_pack _ s e m hW he hm, expOf_pack _ s e m hW he hm, manOf_pack _ s e m hW he hm⟩

/-- The NaNs are the patterns whose magnitude is above that of infinity (R52). -/
theorem isNan_iff_lt_magnitude {F : FormatDesc} (hF : 0 < emax F) (x : Nat) :
    isNan F x = true ↔ emax F * 2 ^ F.M < x % 2 ^ (F.M + F.E) := by
  have hman := manOf_lt F x
  have hexp : expOf F x ≤ emax F := Nat.le_sub_one_of_lt (expOf_lt F x)
  rw [isNan_iff F x hF, ← expOf_mul_add_manOf]
  constructor
  · rintro ⟨he, hm⟩
    rw [he]
    omega
  · intro hlt
    have he : expOf F x = emax F := by
      by_contra hne
      have hbelow : (expOf F x + 1) * 2 ^ F.M ≤ emax F * 2 ^ F.M :=
        Nat.mul_le_mul_right _ (by omega)
      rw [Nat.succ_mul] at hbelow
      omega
    rw [he] at hlt
    exact ⟨he, by omega⟩

theorem narrowDesc_magnitude_width (f : NarrowFmt) : (narrowDesc f).M + (narrowDesc f).E = 15 := by
  cases f <;> rfl

/-- The infinity of a narrow format has a magnitude of fifteen bits. -/
theorem infinity_magnitude_lt (f : NarrowFmt) :
    emax (narrowDesc f) * 2 ^ (narrowDesc f).M < 2 ^ 15 := by
  cases f <;> decide

/-! ### The special classes -/

/-- The truncated mantissa of a NaN, with 1 in place of 0, fits its field (R83). -/
theorem max_one_man_div_lt (f : NarrowFmt) {m : Nat} (hm : m < 2 ^ 23) :
    max 1 (m / 2 ^ (23 - (narrowDesc f).M)) < 2 ^ (narrowDesc f).M := by
  cases f <;> simp only [narrowDesc, fp16, bf16] <;> omega

/-- Settles O37: each of the three sums is that of the fields claimed. -/
theorem narrowSpecialClasses : Obligations.NarrowSpecialClasses := by
  intro f x
  refine ⟨fun he => ?zero, fun he hm => ?inf, fun he hm => ?nan⟩
  case zero =>
    rw [narrow_toNat_of_exp_zero f he]
    simpa using fieldsOf_narrow_sum f x.msb (Nat.two_pow_pos _) (Nat.two_pow_pos _)
  case inf =>
    rw [narrow_toNat_of_inf f he hm]
    exact fieldsOf_narrow_sum f x.msb (emax_lt _) (Nat.two_pow_pos _)
  case nan =>
    rw [narrow_toNat_of_nan f he hm]
    exact fieldsOf_narrow_sum f x.msb (emax_lt _) (max_one_man_div_lt f (manOf_lt fp32 x.toNat))

/-! ### The three arms of a normal -/

/-- The magnitude that a normal with rebiased exponent `e` narrows to: overflow (R84), in range
(R85, R86), too small (R87 step 2) or subnormal (R87 step 3). -/
def narrowedMagnitude (F : FormatDesc) (e : Int) (m32 : Nat) : Nat :=
  if emax F ≤ e then emax F * 2 ^ F.M
  else if 1 ≤ e then e.toNat * 2 ^ F.M + rneShift m32 (23 - F.M)
  else if F.M < 1 - e then 0
  else rneShift (2 ^ 23 + m32) (23 - F.M + (1 - e).toNat)

theorem narrowedMagnitude_of_overflow {F : FormatDesc} {e : Int} (m : Nat) (h : emax F ≤ e) :
    narrowedMagnitude F e m = emax F * 2 ^ F.M := if_pos h

theorem narrowedMagnitude_of_inRange {F : FormatDesc} {e : Int} (m : Nat) (h1 : 1 ≤ e)
    (h : e < emax F) :
    narrowedMagnitude F e m = e.toNat * 2 ^ F.M + rneShift m (23 - F.M) := by
  rw [narrowedMagnitude, if_neg (by omega), if_pos h1]

theorem narrowedMagnitude_of_tooSmall {F : FormatDesc} {e : Int} (m : Nat) (hF : 0 < emax F)
    (h0 : e ≤ 0) (hM : F.M < 1 - e) :
    narrowedMagnitude F e m = 0 := by
  rw [narrowedMagnitude, if_neg (by omega), if_neg (by omega), if_pos hM]

theorem narrowedMagnitude_of_underflow {F : FormatDesc} {e : Int} (m : Nat) (hF : 0 < emax F)
    (h0 : e ≤ 0) (hM : 1 - e ≤ F.M) :
    narrowedMagnitude F e m = rneShift (2 ^ 23 + m) (23 - F.M + (1 - e).toNat) := by
  rw [narrowedMagnitude, if_neg (by omega), if_neg (by omega), if_neg (by omega)]

/-- The underflow arm is a magnitude: the carry to the smallest normal is the same sum (R87). -/
theorem toNat_ofNat_narrowUnderflow (f : NarrowFmt) (s : Bool) {sh m : Nat} (hsh : 1 ≤ sh)
    (hm : m < 2 ^ 23) :
    (BitVec.ofNat 16 (narrowUnderflow (narrowDesc f) s sh m)).toNat = s.toNat * 2 ^ 15 +
      if sh > (narrowDesc f).M then 0 else rneShift (2 ^ 23 + m) (23 - (narrowDesc f).M + sh) := by
  obtain ⟨-, -, hM⟩ := narrowDesc_width f
  have hround := rneShift_underflow_le hM hsh hm
  have hone : 1 < 2 ^ (narrowDesc f).E := by cases f <;> decide
  simp only [narrowUnderflow]
  split
  · rw [toNat_ofNat_pack f s (Nat.two_pow_pos _) (Nat.two_pow_pos _), Nat.zero_mul]
  split
  · next hcarry =>
    rw [toNat_ofNat_pack f s hone (Nat.two_pow_pos _), hcarry, Nat.one_mul, Nat.add_zero]
  · next hne =>
    rw [toNat_ofNat_pack f s (Nat.two_pow_pos _) (Nat.lt_of_le_of_ne hround hne), Nat.zero_mul,
      Nat.zero_add]

/-- Narrowing an FP32 normal, all three arms (R84 to R87). -/
theorem narrow_toNat_of_fp32_normal (f : NarrowFmt) {x : Word32} (h1 : 1 ≤ expOf fp32 x.toNat)
    (h254 : expOf fp32 x.toNat ≤ 254) {e : Int}
    (he : e = (expOf fp32 x.toNat : Int) - 127 + (narrowDesc f).bias) :
    (narrow f x).toNat = x.msb.toNat * 2 ^ 15 +
      narrowedMagnitude (narrowDesc f) e (manOf fp32 x.toNat) := by
  have h0 : expOf fp32 x.toNat ≠ 0 := by omega
  have h255 : expOf fp32 x.toNat ≠ 255 := by omega
  have hman : manOf fp32 x.toNat < 2 ^ 23 := manOf_lt fp32 x.toNat
  rw [narrow_eq_narrowGeneric, narrowGeneric, signOf_fp32_eq_msb]
  simp only [h0, h255, false_and, if_false, ← he]
  split
  · next hover =>
    rw [toNat_ofNat_pack f _ (emax_lt _) (Nat.two_pow_pos _), Nat.add_zero,
      narrowedMagnitude_of_overflow _ hover]
  split
  · next hover hrange =>
    rw [toNat_ofNat_narrowNormal f _ (by omega) hman,
      narrowedMagnitude_of_inRange _ hrange (by omega)]
  · next hover hrange =>
    rw [toNat_ofNat_narrowUnderflow f _ (by omega) hman]
    split
    · rw [narrowedMagnitude_of_tooSmall _ (narrowDesc_emax_pos f) (by omega) (by omega)]
    · rw [narrowedMagnitude_of_underflow _ (narrowDesc_emax_pos f) (by omega) (by omega)]

/-- Settles O38: the first two arms of a normal. -/
theorem narrowNormalRange : Obligations.NarrowNormalRange := by
  intro f x e h1 h254 he
  rw [narrow_toNat_of_fp32_normal f h1 h254 he]
  exact ⟨fun hover => by rw [narrowedMagnitude_of_overflow _ hover],
    fun hlow hhigh => by rw [narrowedMagnitude_of_inRange _ hlow hhigh]⟩

end Sys2Proof.Machine

namespace Sys2Proof

/-- Settles O39: the last two arms of a normal. -/
theorem narrowUnderflow : Obligations.NarrowUnderflow := by
  intro f x e h1 h254 he h0
  rw [Machine.narrow_toNat_of_fp32_normal f h1 h254 he]
  have hpos := Machine.narrowDesc_emax_pos f
  exact ⟨fun hsmall => by
      rw [Machine.narrowedMagnitude_of_tooSmall _ hpos h0 hsmall, Nat.add_zero],
    fun hsub => by rw [Machine.narrowedMagnitude_of_underflow _ hpos h0 hsub]⟩

end Sys2Proof
end

section
/-! PROOFS. What follows from the magnitudes that FP32 normals narrow to: BF16 as one rounding (R90),
the order within an exponent (R94), and NaNs from NaNs only (R95). -/

namespace Sys2Proof.Machine

/-! ### Narrowing to BF16 -/

/-- A normal rounds to no less than the smallest BF16 normal and to no more than infinity (R90). -/
theorem narrowBf16_magnitude_bounds {v : Nat} (hlow : 2 ^ 23 ≤ v) (hhigh : v < 0x7F800000) :
    2 ^ 7 ≤ rneShift v 16 ∧ rneShift v 16 ≤ 0x7F80 := by
  rw [rneShift_sixteen]
  omega

/-- The BF16 result has exponent field 0 only for a zero or a subnormal, whose image is a zero (R81,
R90). -/
theorem expOf_narrowBf16_ne_zero {x : Word32} (h0 : expOf fp32 x.toNat ≠ 0) :
    expOf bf16 (narrowBf16 x).toNat ≠ 0 := by
  have hlt : expOf fp32 x.toNat < 2 ^ 8 := expOf_lt fp32 x.toNat
  have hmag : expOf fp32 x.toNat * 2 ^ 23 + manOf fp32 x.toNat = x.toNat % 2 ^ 31 :=
    expOf_mul_add_manOf fp32 x.toNat
  by_cases h255 : expOf fp32 x.toNat = 255
  · obtain ⟨-, hinf, hnan⟩ := narrowSpecialClasses .bf16 x
    have hexp : expOf bf16 (narrowBf16 x).toNat = 255 := by
      by_cases hm : manOf fp32 x.toNat = 0
      · exact (fieldsOf_eq_iff.mp (hinf h255 hm)).2.1
      · exact (fieldsOf_eq_iff.mp (hnan h255 hm)).2.1
    omega
  · have hman : manOf fp32 x.toNat < 2 ^ 23 := manOf_lt fp32 x.toNat
    obtain ⟨hlow, hhigh⟩ := narrowBf16_magnitude_bounds (v := x.toNat % 2 ^ 31)
      (by omega) (by omega)
    have hdef : expOf bf16 (narrowBf16 x).toNat = (narrowBf16 x).toNat / 2 ^ 7 % 2 ^ 8 :=
      expOf_eq_div_mod bf16 _
    rw [hdef, narrowBf16_toNat_of_normal h0 h255]
    omega

/-- Settles O40: the exponent's bits join the integer that is rounded, and the sign passes the
addition by. -/
theorem narrowBf16RoundsTheMagnitude : Obligations.NarrowBf16RoundsTheMagnitude := by
  refine fun x => ⟨fun h1 h254 => ?_, fun hsub => ?_⟩
  · have hnormal := narrowBf16_toNat_of_normal (x := x) (by omega) (by omega)
    refine ⟨hnormal, ?_⟩
    rw [hnormal, rneShift_sixteen, msb_toNat_eq_div]
    omega
  · obtain ⟨hexp, hman⟩ := (classOf_eq_subnormal_iff _ _).mp hsub
    have h0 : expOf fp32 x.toNat = 0 := by
      by_contra h0
      exact expOf_narrowBf16_ne_zero h0 hexp
    obtain ⟨hzero, -⟩ := narrowSpecialClasses .bf16 x
    exact hman (fieldsOf_eq_iff.mp (hzero h0)).2.2

/-! ### NaNs and order -/

/-- No arm of a normal exceeds infinity (R86, R95). -/
theorem narrowedMagnitude_le (f : NarrowFmt) (e : Int) {m : Nat} (hm : m < 2 ^ 23) :
    narrowedMagnitude (narrowDesc f) e m ≤ emax (narrowDesc f) * 2 ^ (narrowDesc f).M := by
  obtain ⟨-, -, hM⟩ := narrowDesc_width f
  have hpos := narrowDesc_emax_pos f
  unfold narrowedMagnitude
  split
  · exact le_rfl
  split
  · next hover hrange =>
    calc e.toNat * 2 ^ (narrowDesc f).M + rneShift m (23 - (narrowDesc f).M)
        ≤ (e.toNat + 1) * 2 ^ (narrowDesc f).M := by
          rw [Nat.succ_mul]
          exact Nat.add_le_add_left (rneShift_man_le hM hm) _
      _ ≤ emax (narrowDesc f) * 2 ^ (narrowDesc f).M := Nat.mul_le_mul_right _ (by omega)
  split
  · exact Nat.zero_le _
  · exact (rneShift_underflow_le hM (by omega) hm).trans (Nat.le_mul_of_pos_left _ hpos)

/-- Within one exponent every arm keeps the order of the mantissas, since rounding does (R94). -/
theorem narrowedMagnitude_mono (F : FormatDesc) (e : Int) {m m' : Nat} (h : m ≤ m') :
    narrowedMagnitude F e m ≤ narrowedMagnitude F e m' := by
  unfold narrowedMagnitude
  split
  · exact le_rfl
  split
  · exact Nat.add_le_add_left (rneShift_mono h _) _
  split
  · exact le_rfl
  · exact rneShift_mono (Nat.add_le_add_left h _) _

/-- The low fifteen bits of the result for a normal are its magnitude. -/
theorem narrow_mod_of_fp32_normal (f : NarrowFmt) {x : Word32} (h1 : 1 ≤ expOf fp32 x.toNat)
    (h254 : expOf fp32 x.toNat ≤ 254) :
    (narrow f x).toNat % 2 ^ 15 =
      narrowedMagnitude (narrowDesc f) ((expOf fp32 x.toNat : Int) - 127 + (narrowDesc f).bias)
        (manOf fp32 x.toNat) := by
  rw [narrow_toNat_of_fp32_normal f h1 h254 rfl, Nat.mul_add_mod']
  exact Nat.mod_eq_of_lt
    ((narrowedMagnitude_le f _ (manOf_lt fp32 x.toNat)).trans_lt (infinity_magnitude_lt f))

/-- Settles O43: the low bits are magnitudes of one exponent. -/
theorem narrowIsMonotone : Obligations.NarrowIsMonotone := by
  intro f x y _ hexp h1 h254 hman
  rw [narrow_mod_of_fp32_normal f h1 h254,
    narrow_mod_of_fp32_normal f (hexp ▸ h1) (hexp ▸ h254), hexp]
  exact narrowedMagnitude_mono _ _ hman

theorem isNan_narrow_of_nan (f : NarrowFmt) {x : Word32} (h : isNan fp32 x.toNat = true) :
    isNan (narrowDesc f) (narrow f x).toNat = true ∧
      manOf (narrowDesc f) (narrow f x).toNat ≠ 0 := by
  obtain ⟨he, hm⟩ := (isNan_iff fp32 _ (by decide)).mp h
  obtain ⟨-, -, hnan⟩ := narrowSpecialClasses f x
  obtain ⟨-, hexp, hman⟩ := fieldsOf_eq_iff.mp (hnan he hm)
  have hne : manOf (narrowDesc f) (narrow f x).toNat ≠ 0 := by omega
  exact ⟨(isNan_iff _ _ (narrowDesc_emax_pos f)).mpr ⟨hexp, hne⟩, hne⟩

/-- What is no NaN narrows to a magnitude of at most infinity's (R95). -/
theorem narrow_mod_le_of_not_nan (f : NarrowFmt) {x : Word32} (h : isNan fp32 x.toNat = false) :
    (narrow f x).toNat % 2 ^ 15 ≤ emax (narrowDesc f) * 2 ^ (narrowDesc f).M := by
  have hlt : expOf fp32 x.toNat < 2 ^ 8 := expOf_lt fp32 x.toNat
  by_cases h0 : expOf fp32 x.toNat = 0
  · rw [narrow_toNat_of_exp_zero f h0, Nat.mul_mod_left]
    exact Nat.zero_le _
  by_cases h255 : expOf fp32 x.toNat = 255
  · have hm : manOf fp32 x.toNat = 0 := by
      by_contra hm
      rw [(isNan_iff fp32 _ (by decide)).mpr ⟨h255, hm⟩] at h
      cases h
    rw [narrow_toNat_of_inf f h255 hm, Nat.mul_add_mod']
    exact Nat.mod_le _ _
  · rw [narrow_mod_of_fp32_normal f (by omega) (by omega)]
    exact narrowedMagnitude_le f _ (manOf_lt fp32 x.toNat)

/-- Settles O42: a NaN stays one, and nothing else gets above infinity. -/
theorem narrowGivesNanOnlyForNan : Obligations.NarrowGivesNanOnlyForNan := by
  refine fun f x => ⟨?_, fun hnan => (isNan_narrow_of_nan f hnan).2⟩
  cases h : isNan fp32 x.toNat with
  | true => exact (isNan_narrow_of_nan f h).1
  | false =>
    rw [Bool.eq_false_iff, Ne, isNan_iff_lt_magnitude (narrowDesc_emax_pos f),
      narrowDesc_magnitude_width, Nat.not_lt]
    exact narrow_mod_le_of_not_nan f h

end Sys2Proof.Machine
end

section
/-! PROOFS. The round trip: what widening puts below a narrow mantissa is zeros, which narrowing takes
away again (R92). -/

namespace Sys2Proof.Machine

/-- The magnitude of a narrow pattern and its sign are the pattern (R51). -/
theorem narrow_sum_fields_eq (f : NarrowFmt) (x : Word16) :
    x.msb.toNat * 2 ^ 15 + (expOf (narrowDesc f) x.toNat * 2 ^ (narrowDesc f).M +
      manOf (narrowDesc f) x.toNat) = x.toNat := by
  obtain ⟨hW, h16, -⟩ := narrowDesc_width f
  have hsum := sum_fields_eq hW (x := x.toNat) (by rw [h16]; exact x.isLt)
  rwa [signOf_narrow_eq_msb, h16, Nat.add_assoc] at hsum

/-- Off the subnormals both widenings have the fields of the generic one (R60, R64). -/
theorem fieldsOf_widen_of_not_subnormal (f : NarrowFmt) {x : Word16}
    (h : classOf (narrowDesc f) x.toNat ≠ .subnormal) :
    fieldsOf fp32 (widen f x).toNat = widenedFields (narrowDesc f) x.toNat := by
  cases f
  case fp16 => exact fieldsOf_widenGeneric .fp16 x
  case bf16 =>
    rw [widen, ← genericBf16WideningIsTheShift x h]
    exact fieldsOf_widenGeneric .bf16 x

/-- Widening moves a normal's exponent by the difference of the biases, and narrowing moves it
back. -/
theorem rebias_widened (f : NarrowFmt) (e : Nat) :
    (e : Int) = (e + (127 - (narrowDesc f).bias) : Nat) - 127 + (narrowDesc f).bias := by
  cases f <;> simp only [narrowDesc, fp16, bf16] <;> omega

theorem narrow_widen_of_not_subnormal (f : NarrowFmt) {x : Word16}
    (h : classOf (narrowDesc f) x.toNat ≠ .subnormal) : narrow f (widen f x) = x := by
  have hmax := narrowDesc_emax_pos f
  have hfields := fieldsOf_widen_of_not_subnormal f h
  apply BitVec.eq_of_toNat_eq
  rw [← narrow_sum_fields_eq f x, ← msb_widen f x]
  rw [widenedFields] at hfields
  cases hclass : classOf (narrowDesc f) x.toNat <;> rw [hclass] at hfields <;>
    obtain ⟨-, he, hm⟩ := fieldsOf_eq_iff.mp hfields
  case zero =>
    obtain ⟨he16, hm16⟩ := (classOf_eq_zero_iff _ _).mp hclass
    rw [narrow_toNat_of_exp_zero f he, he16, hm16, Nat.zero_mul, Nat.add_zero]
  case subnormal => exact absurd hclass h
  case normal =>
    obtain ⟨h0, hne⟩ := (classOf_eq_normal_iff _ _).mp hclass
    have hlt := expOf_lt (narrowDesc f) x.toNat
    obtain ⟨-, h255⟩ := rebias_normal f hlt hne
    have hbelow : expOf (narrowDesc f) x.toNat < emax (narrowDesc f) :=
      Nat.lt_of_le_of_ne (Nat.le_sub_one_of_lt hlt) hne
    rw [narrow_toNat_of_normal f (by omega) (by omega) (he ▸ rebias_widened f _) (by omega) hbelow,
      hm, rneShift_mul_two_pow_self]
  case infinity =>
    obtain ⟨he16, hm16⟩ := (classOf_eq_infinity_iff hmax _).mp hclass
    rw [narrow_toNat_of_inf f he hm, he16, hm16, Nat.add_zero]
  case nan =>
    obtain ⟨he16, hm16⟩ := (classOf_eq_nan_iff hmax _).mp hclass
    have hpos := Nat.two_pow_pos (23 - (narrowDesc f).M)
    have hm0 := Nat.pos_of_ne_zero hm16
    rw [narrow_toNat_of_nan f he (hm ▸ (Nat.mul_pos hm0 hpos).ne'), he16, hm,
      Nat.mul_div_cancel _ hpos, Nat.max_eq_right hm0]

/-- The normal that an FP16 subnormal becomes: its significand is the mantissa moved up (R63). -/
theorem significand_widenFp16_of_subnormal {x : Word16} (h : classOf fp16 x.toNat = .subnormal) :
    expOf fp32 (widenFp16 x).toNat = 103 + Nat.log2 (manOf fp16 x.toNat) ∧
      2 ^ 23 + manOf fp32 (widenFp16 x).toNat =
        manOf fp16 x.toNat * 2 ^ (23 - Nat.log2 (manOf fp16 x.toNat)) := by
  obtain ⟨-, hm16⟩ := (classOf_eq_subnormal_iff _ _).mp h
  have hman : manOf fp16 x.toNat < 2 ^ 10 := manOf_lt fp16 x.toNat
  have hlog : Nat.log2 (manOf fp16 x.toNat) < 10 := (Nat.log2_lt hm16).mpr hman
  obtain ⟨hlead, -⟩ := leadingOne_bounds hm16 hman
  have hfields := fieldsOf_widenFp16 x
  rw [widenedFp16Fields, h] at hfields
  obtain ⟨-, he, hm⟩ := fieldsOf_eq_iff.mp hfields
  have hplace : 23 - Nat.log2 (manOf fp16 x.toNat) =
      10 - Nat.log2 (manOf fp16 x.toNat) + 13 := by omega
  refine ⟨he, ?_⟩
  rw [hm, hplace, Nat.pow_add, ← Nat.mul_assoc]
  omega

/-- An FP16 subnormal is a normal in FP32, and the shift back to its place is exact (R63, R87). -/
theorem narrowFp16_widenFp16_of_subnormal {x : Word16} (h : classOf fp16 x.toNat = .subnormal) :
    narrowFp16 (widenFp16 x) = x := by
  obtain ⟨he16, hm16⟩ := (classOf_eq_subnormal_iff _ _).mp h
  obtain ⟨he, hsig⟩ := significand_widenFp16_of_subnormal h
  have hlog : Nat.log2 (manOf fp16 x.toNat) < 10 := (Nat.log2_lt hm16).mpr (manOf_lt fp16 x.toNat)
  have hnarrow : (narrowFp16 (widenFp16 x)).toNat = (widen .fp16 x).msb.toNat * 2 ^ 15 +
      narrowedMagnitude fp16 (Nat.log2 (manOf fp16 x.toNat) - 9) (manOf fp32 (widenFp16 x).toNat) :=
    narrow_toNat_of_fp32_normal .fp16 (x := widenFp16 x) (by omega) (by omega)
      (by rw [he]; show _ = _ - 127 + 15; omega)
  have hshift : 23 - fp16.M + (1 - ((Nat.log2 (manOf fp16 x.toNat) : Int) - 9)).toNat =
      23 - Nat.log2 (manOf fp16 x.toNat) := by
    show 23 - 10 + _ = _
    omega
  have hsum := narrow_sum_fields_eq .fp16 x
  rw [narrowDesc, he16, Nat.zero_mul, Nat.zero_add] at hsum
  apply BitVec.eq_of_toNat_eq
  rw [hnarrow, msb_widen, narrowedMagnitude_of_underflow _ (by decide) (by omega)
    (by show _ ≤ (10 : Int); omega), hshift, hsig, rneShift_mul_two_pow_self, hsum]

/-- A BF16 subnormal is a subnormal in FP32 too, which narrowing flushes to zero (R62, R81). -/
theorem narrowBf16_widenBf16_of_subnormal {x : Word16} (h : classOf bf16 x.toNat = .subnormal) :
    narrowBf16 (widenBf16 x) = if x.msb then 0x8000#16 else 0x0000#16 := by
  obtain ⟨he16, -⟩ := (classOf_eq_subnormal_iff _ _).mp h
  obtain ⟨-, he, -⟩ := fieldsOf_eq_iff.mp (fieldsOf_widenBf16 x)
  have hzero : (narrowBf16 (widenBf16 x)).toNat = (widen .bf16 x).msb.toNat * 2 ^ 15 :=
    narrow_toNat_of_exp_zero .bf16 (he.trans he16)
  rw [msb_widen] at hzero
  apply BitVec.eq_of_toNat_eq
  rw [hzero]
  cases x.msb <;> rfl

/-- Settles O44: the subnormals of either format apart, every class comes back by one argument. -/
theorem roundTrip : Obligations.RoundTrip := by
  refine ⟨fun x => ?_, fun x => narrow_widen_of_not_subnormal .bf16,
    fun x => narrowBf16_widenBf16_of_subnormal⟩
  by_cases h : classOf fp16 x.toNat = .subnormal
  · exact narrowFp16_widenFp16_of_subnormal h
  · exact narrow_widen_of_not_subnormal .fp16 h

end Sys2Proof.Machine
end

section
/-! PROOFS. Narrowing against the nearest-even conversion (R91): `roundTo` on the magnitudes of FP32
patterns, and the two regions where the converter gives zero instead. -/

namespace Sys2Proof.Machine

/-! ### The nearest-even conversion as a magnitude -/

/-- A magnitude beside a sign, the exponent's bits among it (R51, R102). -/
theorem pack_exp_zero (F : FormatDesc) (s : Bool) {m : Nat} (hm : m < 2 ^ (F.W - 1)) :
    pack F s 0 m = s.toNat * 2 ^ (F.W - 1) + m := by
  rw [pack, Nat.zero_shiftLeft, Nat.or_zero, ← Nat.shiftLeft_add_eq_or_of_lt hm, Nat.shiftLeft_eq]

theorem narrowDesc_scale (f : NarrowFmt) :
    (narrowDesc f).bias ≤ 127 ∧ (narrowDesc f).bias + (narrowDesc f).M ≤ 134 := by
  cases f <;> decide

/-- `roundTo` in a narrow format, with the binade's exponent field `g + 1` and the place `p` that it
rounds to: the rounded magnitude, no further than infinity (R102). -/
theorem roundTo_eq_sum (f : NarrowFmt) (s : Bool) {n d g p : Nat} {q : Int} (hn : n ≠ 0)
    (hq : max ((Nat.log2 n : Int) - d) (1 - (narrowDesc f).bias) = q)
    (hg : q + (narrowDesc f).bias - 1 = g) (hp : q - (narrowDesc f).M + d = p) :
    roundTo (narrowDesc f) s n d = s.toNat * 2 ^ 15 +
      min (emax (narrowDesc f) * 2 ^ (narrowDesc f).M)
        (g * 2 ^ (narrowDesc f).M + rneShift n p) := by
  obtain ⟨-, h16, -⟩ := narrowDesc_width f
  have hclip : ∀ a b : Nat, (if a ≥ b then b else a) = min b a := fun a b => by
    split <;> omega
  have hinf := infinity_magnitude_lt f
  simp only [roundTo, if_neg hn, hq, hg, hp, rneScale, Int.toNat_natCast, Int.natCast_nonneg,
    if_true, Nat.shiftLeft_eq, hclip]
  rw [pack_exp_zero _ _ (by rw [h16]; omega), h16]

/-- The nearest-even conversion of R91 to the narrow format: the value of an FP32 pattern, rounded
once. -/
def nearestPattern (f : NarrowFmt) (x : Word32) : Nat :=
  roundTo (narrowDesc f) x.msb (unitsOf fp32 x.toNat) (unitScale fp32)

/-- Moving a value of `w + 1` bits up by `k` places moves its leading 1 up. -/
theorem log2_mul_two_pow {v w : Nat} (k : Nat) (hlow : 2 ^ w ≤ v) (hhigh : v < 2 ^ (w + 1)) :
    Nat.log2 (v * 2 ^ k) = w + k := by
  have hpos := Nat.two_pow_pos k
  have hne : v * 2 ^ k ≠ 0 := (Nat.mul_pos ((Nat.two_pow_pos w).trans_le hlow) hpos).ne'
  rw [Nat.log2_eq_iff hne, Nat.add_right_comm, Nat.pow_add, Nat.pow_add]
  exact ⟨Nat.mul_le_mul_right _ hlow, Nat.mul_lt_mul_of_pos_right hhigh hpos⟩

/-- An FP32 normal in units: its significand, moved up by its exponent (R53). -/
theorem unitsOf_fp32_normal {x : Word32} {k : Nat} (hk : expOf fp32 x.toNat = k + 1) :
    unitsOf fp32 x.toNat = (2 ^ 23 + manOf fp32 x.toNat) * 2 ^ k ∧
      Nat.log2 (unitsOf fp32 x.toNat) = 23 + k ∧ unitsOf fp32 x.toNat ≠ 0 := by
  have hman : manOf fp32 x.toNat < 2 ^ 23 := manOf_lt fp32 x.toNat
  have hunits : unitsOf fp32 x.toNat = (2 ^ 23 + manOf fp32 x.toNat) * 2 ^ k :=
    unitsOf_of_exp_succ hk
  refine ⟨hunits, ?_, ?_⟩
  · rw [hunits, log2_mul_two_pow (w := 23) k (by omega) (by omega)]
  · rw [hunits]
    exact (Nat.mul_pos (by omega) (Nat.two_pow_pos k)).ne'

/-- The implicit bit of the significand passes the rounder by (R71, R86). -/
theorem rneShift_significand (f : NarrowFmt) (m : Nat) :
    rneShift (2 ^ 23 + m) (23 - (narrowDesc f).M) =
      2 ^ (narrowDesc f).M + rneShift m (23 - (narrowDesc f).M) := by
  have hM : 1 ≤ (narrowDesc f).M ∧ (narrowDesc f).M < 23 := by cases f <;> decide
  have htwo : 2 * 2 ^ ((narrowDesc f).M - 1) = 2 ^ (narrowDesc f).M := mul_pow_sub_one (by omega) 2
  have hsig : 2 ^ 23 = 2 ^ (23 - (narrowDesc f).M) * (2 * 2 ^ ((narrowDesc f).M - 1)) := by
    rw [htwo, ← Nat.pow_add, Nat.sub_add_cancel hM.2.le]
  rw [hsig, rneShift_add_even m _ (by omega), htwo]

/-- From the narrow normal range up, the converter is the nearest-even conversion (R84 to R86,
R91). -/
theorem nearestPattern_of_normal_range (f : NarrowFmt) {x : Word32} (h1 : 1 ≤ expOf fp32 x.toNat)
    (h254 : expOf fp32 x.toNat ≤ 254) {e : Int}
    (he : e = (expOf fp32 x.toNat : Int) - 127 + (narrowDesc f).bias) (hlow : 1 ≤ e) :
    nearestPattern f x = (narrow f x).toNat := by
  obtain ⟨k, hk⟩ : ∃ k, expOf fp32 x.toNat = k + 1 := ⟨expOf fp32 x.toNat - 1, by omega⟩
  obtain ⟨g, hg⟩ : ∃ g : Nat, e = g + 1 := ⟨(e - 1).toNat, by omega⟩
  obtain ⟨-, -, hM⟩ := narrowDesc_width f
  obtain ⟨hunits, hlog, hne⟩ := unitsOf_fp32_normal hk
  have hscale : unitScale fp32 = 149 := rfl
  have hbound := narrowedMagnitude_le f e (manOf_lt fp32 x.toNat)
  rw [nearestPattern, roundTo_eq_sum f _ hne (q := (k : Int) - 126) (g := g)
      (p := k + (23 - (narrowDesc f).M)) (by omega) (by omega) (by omega),
    narrow_toNat_of_fp32_normal f h1 h254 he, hunits, rneShift_mul_two_pow, rneShift_significand,
    ← Nat.add_assoc, ← Nat.succ_mul]
  congr 1
  rcases le_or_gt (emax (narrowDesc f) : Int) e with hover | hrange
  · rw [narrowedMagnitude_of_overflow _ hover]
    have hge : emax (narrowDesc f) * 2 ^ (narrowDesc f).M ≤ g.succ * 2 ^ (narrowDesc f).M :=
      Nat.mul_le_mul_right _ (by omega)
    omega
  · have htoNat : e.toNat = g.succ := by omega
    rw [narrowedMagnitude_of_inRange _ hlow hrange, htoNat] at hbound ⊢
    exact Nat.min_eq_right hbound

/-- Below the narrow normal range the nearest-even conversion shifts and rounds however far the shift
goes, where R87 stops at the width of the mantissa (R91). -/
theorem nearestPattern_of_underflow (f : NarrowFmt) {x : Word32} (h1 : 1 ≤ expOf fp32 x.toNat)
    {e : Int} (he : e = (expOf fp32 x.toNat : Int) - 127 + (narrowDesc f).bias) (h0 : e ≤ 0) :
    nearestPattern f x = x.msb.toNat * 2 ^ 15 +
      rneShift (2 ^ 23 + manOf fp32 x.toNat) (23 - (narrowDesc f).M + (1 - e).toNat) := by
  obtain ⟨k, hk⟩ : ∃ k, expOf fp32 x.toNat = k + 1 := ⟨expOf fp32 x.toNat - 1, by omega⟩
  obtain ⟨-, -, hM⟩ := narrowDesc_width f
  obtain ⟨hunits, hlog, hne⟩ := unitsOf_fp32_normal hk
  have hscale : unitScale fp32 = 149 := rfl
  have hround := rneShift_underflow_le hM (sh := (1 - e).toNat) (by omega) (manOf_lt fp32 x.toNat)
  have hinf := hround.trans (Nat.le_mul_of_pos_left _ (narrowDesc_emax_pos f))
  rw [nearestPattern, roundTo_eq_sum f _ hne (q := 1 - ((narrowDesc f).bias : Int)) (g := 0)
      (p := k + (23 - (narrowDesc f).M + (1 - e).toNat)) (by omega) (by omega) (by omega),
    hunits, rneShift_mul_two_pow, Nat.zero_mul, Nat.zero_add, Nat.min_eq_right hinf]

/-- From the smallest narrow subnormal up, narrowing an FP32 normal is the nearest-even conversion
(R91). -/
theorem narrow_eq_nearestPattern_of_normal (f : NarrowFmt) {x : Word32}
    (h1 : 1 ≤ expOf fp32 x.toNat) (h254 : expOf fp32 x.toNat ≤ 254) {e : Int}
    (he : e = (expOf fp32 x.toNat : Int) - 127 + (narrowDesc f).bias)
    (hM : 1 - e ≤ (narrowDesc f).M) : (narrow f x).toNat = nearestPattern f x := by
  rcases le_or_gt 1 e with hlow | hsub
  · exact (nearestPattern_of_normal_range f h1 h254 he hlow).symm
  · rw [nearestPattern_of_underflow f h1 he (by omega), narrow_toNat_of_fp32_normal f h1 h254 he,
      narrowedMagnitude_of_underflow _ (narrowDesc_emax_pos f) (by omega) hM]

/-- The mantissa of an FP32 subnormal rounds to no more than the smallest BF16 normal, and to zero in
FP16. -/
theorem rneShift_subnormal_le (f : NarrowFmt) {m : Nat} (hm : m < 2 ^ 23) :
    rneShift m (150 - ((narrowDesc f).bias + (narrowDesc f).M)) ≤
      emax (narrowDesc f) * 2 ^ (narrowDesc f).M := by
  cases f
  case fp16 =>
    have hzero : rneShift m 125 = 0 :=
      rneShift_eq_zero_of_lt (by decide) (hm.trans (by decide))
    exact hzero.le.trans (Nat.zero_le _)
  case bf16 => exact (rneShift_man_le (F := bf16) (by decide) hm).trans (by decide)

/-- The nearest-even conversion of an FP32 zero or subnormal (R91). -/
theorem nearestPattern_of_exp_zero (f : NarrowFmt) {x : Word32} (he : expOf fp32 x.toNat = 0) :
    nearestPattern f x = x.msb.toNat * 2 ^ 15 +
      rneShift (manOf fp32 x.toNat) (150 - ((narrowDesc f).bias + (narrowDesc f).M)) := by
  have hman : manOf fp32 x.toNat < 2 ^ 23 := manOf_lt fp32 x.toNat
  have hscale : unitScale fp32 = 149 := rfl
  rw [nearestPattern, unitsOf_of_exp_zero he]
  generalize manOf fp32 x.toNat = m at hman ⊢
  rcases Nat.eq_zero_or_pos m with rfl | hpos
  · obtain ⟨-, h16, -⟩ := narrowDesc_width f
    rw [roundTo, if_pos rfl, pack_exp_zero _ _ (Nat.two_pow_pos _), h16,
      rneShift_eq_zero_of_lt (by have := narrowDesc_scale f; omega) (Nat.two_pow_pos _)]
  · have hlog : Nat.log2 m < 23 := (Nat.log2_lt hpos.ne').mpr hman
    have hdesc := narrowDesc_scale f
    rw [roundTo_eq_sum f _ hpos.ne' (q := 1 - ((narrowDesc f).bias : Int)) (g := 0)
        (p := 150 - ((narrowDesc f).bias + (narrowDesc f).M)) (by omega) (by omega) (by omega),
      Nat.zero_mul, Nat.zero_add, Nat.min_eq_right (rneShift_subnormal_le f hman)]

/-! ### The two regions -/

/-- Exponent and mantissa of an FP32 pattern make up its magnitude (R51). -/
theorem fp32_magnitude_eq (x : Word32) :
    x.toNat % 2 ^ 31 = expOf fp32 x.toNat * 2 ^ 23 + manOf fp32 x.toNat ∧
      manOf fp32 x.toNat < 2 ^ 23 :=
  ⟨(expOf_mul_add_manOf fp32 x.toNat).symm, manOf_lt fp32 x.toNat⟩

theorem expOf_fp32_le_of_finite {x : Word32} (h : isFinite fp32 x.toNat = true) :
    expOf fp32 x.toNat ≤ 254 := by
  have hlt : expOf fp32 x.toNat + 1 < 2 ^ 8 := expOf_succ_lt h
  omega

/-- Narrowing to FP16 below its smallest subnormal gives the zero of the sign (R81, R87). -/
theorem narrowFp16_toNat_of_exp_le {x : Word32} (h : expOf fp32 x.toNat ≤ 102) :
    (narrow .fp16 x).toNat = x.msb.toNat * 2 ^ 15 := by
  by_cases h0 : expOf fp32 x.toNat = 0
  · exact narrow_toNat_of_exp_zero .fp16 h0
  · have hsmall := narrowedMagnitude_of_tooSmall (F := fp16) (e := expOf fp32 x.toNat - 112)
      (manOf fp32 x.toNat) (by decide) (by omega) (by show (10 : Int) < _; omega)
    rw [narrow_toNat_of_fp32_normal .fp16 (by omega) (by omega) (e := expOf fp32 x.toNat - 112)
      (by show _ = _ - 127 + 15; omega), narrowDesc, hsmall, Nat.add_zero]

/-- Rounded two places above its leading 1 or further, a significand is below half (R74). -/
theorem rneShift_significand_eq_zero {m n : Nat} (hm : m < 2 ^ 23) (hn : 25 ≤ n) :
    rneShift (2 ^ 23 + m) n = 0 := by
  have hpow : 2 ^ 24 ≤ 2 ^ (n - 1) := Nat.pow_le_pow_right two_pos (by omega)
  exact rneShift_eq_zero_of_lt (by omega) ((by omega : 2 ^ 23 + m < 2 ^ 24).trans_le hpow)

/-- Rounded at the place above it, a significand is above half unless only its leading 1 is set
(R74). -/
theorem rneShift_significand_width {m : Nat} (hm : m < 2 ^ 23) :
    rneShift (2 ^ 23 + m) 24 = if m = 0 then 0 else 1 := by
  rw [rneShift_width (by omega) (by decide)]
  split_ifs <;> omega

/-- The nearest-even conversion of an FP32 normal below the normal range of FP16 (R91). -/
theorem nearestPattern_fp16_of_underflow {x : Word32} (h1 : 1 ≤ expOf fp32 x.toNat)
    (h112 : expOf fp32 x.toNat ≤ 112) :
    nearestPattern .fp16 x = x.msb.toNat * 2 ^ 15 +
      rneShift (2 ^ 23 + manOf fp32 x.toNat) (126 - expOf fp32 x.toNat) := by
  have hshift : 23 - (narrowDesc .fp16).M + (1 - ((expOf fp32 x.toNat : Int) - 112)).toNat =
      126 - expOf fp32 x.toNat := by
    show 23 - 10 + _ = _
    omega
  rw [nearestPattern_of_underflow .fp16 h1 (e := expOf fp32 x.toNat - 112)
    (by show _ = _ - 127 + 15; omega) (by omega), hshift]

/-- At most half of the smallest FP16 subnormal is nearest to zero (R91). -/
theorem nearestPattern_fp16_of_le {x : Word32} (h : x.toNat % 2 ^ 31 ≤ 0x33000000) :
    nearestPattern .fp16 x = x.msb.toNat * 2 ^ 15 := by
  obtain ⟨hmag, hman⟩ := fp32_magnitude_eq x
  by_cases h0 : expOf fp32 x.toNat = 0
  · have hshift : 150 - ((narrowDesc .fp16).bias + (narrowDesc .fp16).M) = 125 := rfl
    rw [nearestPattern_of_exp_zero .fp16 h0, hshift,
      rneShift_eq_zero_of_lt (by decide) (hman.trans (by decide)), Nat.add_zero]
  rw [nearestPattern_fp16_of_underflow (by omega) (by omega)]
  by_cases h102 : expOf fp32 x.toNat = 102
  · rw [h102, rneShift_significand_width hman, if_pos (by omega), Nat.add_zero]
  · rw [rneShift_significand_eq_zero hman (by omega), Nat.add_zero]

/-- Outside its region FP16 narrowing is the nearest-even conversion (R91). -/
theorem narrowFp16_eq_nearest {x : Word32} (hfin : isFinite fp32 x.toNat = true)
    (hout : ¬ (0x33000001 ≤ x.toNat % 2 ^ 31 ∧ x.toNat % 2 ^ 31 ≤ 0x337FFFFF)) :
    (narrow .fp16 x).toNat = nearestPattern .fp16 x := by
  obtain ⟨hmag, hman⟩ := fp32_magnitude_eq x
  by_cases hsmall : expOf fp32 x.toNat ≤ 102
  · rw [narrowFp16_toNat_of_exp_le hsmall, nearestPattern_fp16_of_le (by omega)]
  · exact narrow_eq_nearestPattern_of_normal .fp16 (by omega) (expOf_fp32_le_of_finite hfin)
      (e := expOf fp32 x.toNat - 112) (by show _ = _ - 127 + 15; omega)
      (by show _ ≤ (10 : Int); omega)

/-- In its region FP16 narrowing gives zero and the nearest-even conversion the smallest subnormal:
the shift is by the width of the significand, which is above half of its range (R87, R91). -/
theorem narrowFp16_in_region {x : Word32} (hlow : 0x33000001 ≤ x.toNat % 2 ^ 31)
    (hhigh : x.toNat % 2 ^ 31 ≤ 0x337FFFFF) :
    (narrow .fp16 x).toNat = x.msb.toNat * 2 ^ 15 ∧
      nearestPattern .fp16 x = x.msb.toNat * 2 ^ 15 + 1 := by
  obtain ⟨hmag, hman⟩ := fp32_magnitude_eq x
  have hexp : expOf fp32 x.toNat = 102 := by omega
  refine ⟨narrowFp16_toNat_of_exp_le hexp.le, ?_⟩
  rw [nearestPattern_fp16_of_underflow (by omega) (by omega), hexp,
    rneShift_significand_width hman, if_neg (by omega)]

/-- The nearest-even conversion of an FP32 zero or subnormal to BF16 rounds its mantissa (R91). -/
theorem nearestPattern_bf16_of_exp_zero {x : Word32} (h0 : expOf fp32 x.toNat = 0) :
    nearestPattern .bf16 x = x.msb.toNat * 2 ^ 15 + rneShift (x.toNat % 2 ^ 31) 16 := by
  have hshift : 150 - ((narrowDesc .bf16).bias + (narrowDesc .bf16).M) = 16 := rfl
  obtain ⟨hmag, -⟩ := fp32_magnitude_eq x
  rw [nearestPattern_of_exp_zero .bf16 h0, hshift, hmag, h0, Nat.zero_mul, Nat.zero_add]

/-- Outside its region BF16 narrowing is the nearest-even conversion (R91). -/
theorem narrowBf16_eq_nearest {x : Word32} (hfin : isFinite fp32 x.toNat = true)
    (hout : ¬ (0x00008001 ≤ x.toNat % 2 ^ 31 ∧ x.toNat % 2 ^ 31 ≤ 0x007FFFFF)) :
    (narrow .bf16 x).toNat = nearestPattern .bf16 x := by
  obtain ⟨hmag, hman⟩ := fp32_magnitude_eq x
  by_cases h0 : expOf fp32 x.toNat = 0
  · rw [narrow_toNat_of_exp_zero .bf16 h0, nearestPattern_bf16_of_exp_zero h0, rneShift_sixteen]
    omega
  · exact narrow_eq_nearestPattern_of_normal .bf16 (by omega) (expOf_fp32_le_of_finite hfin)
      (e := expOf fp32 x.toNat) (by show _ = _ - 127 + 127; omega) (by show _ ≤ (7 : Int); omega)

/-- In its region BF16 narrowing gives zero, and the nearest-even conversion a rounded mantissa of 1
up to the smallest normal (R81, R91). -/
theorem narrowBf16_in_region {x : Word32} (hlow : 0x00008001 ≤ x.toNat % 2 ^ 31)
    (hhigh : x.toNat % 2 ^ 31 ≤ 0x007FFFFF) :
    (narrow .bf16 x).toNat = x.msb.toNat * 2 ^ 15 ∧
      1 ≤ nearestPattern .bf16 x % 2 ^ 15 ∧ nearestPattern .bf16 x % 2 ^ 15 ≤ 0x0080 ∧
      nearestPattern .bf16 x / 2 ^ 15 = x.msb.toNat := by
  obtain ⟨hmag, hman⟩ := fp32_magnitude_eq x
  have h0 : expOf fp32 x.toNat = 0 := by omega
  have hround : 1 ≤ rneShift (x.toNat % 2 ^ 31) 16 ∧
      rneShift (x.toNat % 2 ^ 31) 16 ≤ 0x0080 := by
    rw [rneShift_sixteen]
    omega
  refine ⟨narrow_toNat_of_exp_zero .bf16 h0, ?_⟩
  rw [nearestPattern_bf16_of_exp_zero h0]
  omega

/-- Settles O45: format by format, outside the region and in it. -/
theorem narrowIsNearestEvenButInTwoRegions : Obligations.NarrowIsNearestEvenButInTwoRegions := by
  rintro f x mag nearest hfin rfl rfl
  cases f
  case fp16 =>
    exact ⟨fun hout _ => narrowFp16_eq_nearest hfin fun hin => hout ⟨rfl, hin⟩,
      fun _ hlow hhigh => narrowFp16_in_region hlow hhigh, nofun⟩
  case bf16 =>
    exact ⟨fun _ hout => narrowBf16_eq_nearest hfin fun hin => hout ⟨rfl, hin⟩, nofun,
      fun _ hlow hhigh => narrowBf16_in_region hlow hhigh⟩

end Sys2Proof.Machine
end

section
/-! PROOFS. What stops the machine (R117, R140, R144): a reserved command and nothing else. -/

namespace Sys2Proof.Machine

/-- A request whose command decodes passes the checks of R36 (R39, R42). -/
theorem legalRequest_of_decode {r : Request} {i : Instr} (h : decode (cmdOf r) = .ok i) :
    legalRequest r = true :=
  wellFormed_of_decode_ok _ i h

/-- A step that goes on met no illegal request (R140). -/
theorem legalRequest_of_step_next {s t : State} (hstep : step s = .next t) {r : Request}
    {rest : List HostEvent} (hhost : s.host = .request r :: rest) : legalRequest r = true := by
  cases hdec : decode (cmdOf r) with
  | ok i => exact legalRequest_of_decode hdec
  | error e =>
    have hfault : step s = .fault (.illegalCommand (cmdOf r)) := by simp only [step, hhost, hdec]
    rw [hfault] at hstep
    cases hstep

/-- A request on which a step faults is illegal (R142). -/
theorem illegal_request_of_step_fault {s : State} {f : Fault} (hstep : step s = .fault f) :
    ∃ r rest, s.host = .request r :: rest ∧ legalRequest r = false := by
  obtain ⟨r, rest, e, hhost, hdec, -⟩ := step_fault_cases s f hstep
  refine ⟨r, rest, hhost, Bool.eq_false_iff.mpr fun hlegal => ?_⟩
  obtain ⟨i, hi⟩ := decode_of_legalRequest hlegal
  rw [hdec] at hi
  cases hi

/-- Settles O8: a step goes on, faults on an illegal request, or is refused, which no step is. -/
theorem onlyReservedCommandsStop : Obligations.OnlyReservedCommandsStop := by
  refine ⟨fun i s => ⟨_, exec_eq_respond i s⟩, fun s => ⟨fun hstop => ?_, ?_⟩, step_ne_refused⟩
  · cases hstep : step s with
    | next t => exact absurd ⟨t, hstep⟩ hstop
    | fault f => exact illegal_request_of_step_fault hstep
    | refused why => exact absurd hstep (step_ne_refused s why)
  · rintro ⟨r, rest, hhost, hillegal⟩ ⟨t, hstep⟩
    rw [legalRequest_of_step_next hstep hhost] at hillegal
    cases hillegal

end Sys2Proof.Machine
end

section
/-! PROOFS. The narrow multiply-add as its steps (R107, R108), and the rules' values, computed where no
NaN comes out (R111, R112, R116). -/

namespace Sys2Proof.Machine

/-! ### The overflow policy -/

/-- Without the policy the result is the narrowed sum (R107). -/
theorem fmaNarrow_policy_off (N : NanParams) (f : NarrowFmt) (a b c : Word16) :
    fmaNarrow N f false a b c =
      narrow f (add32 N (mul32 N (widen f a) (widen f b)) (widen f c)) := rfl

/-- The multiply-add in its three exits, the policy's two before the ordinary one (R107, R108). -/
theorem fmaNarrow_eq_ite (N : NanParams) (f : NarrowFmt) (ovfEn : Bool) {a b c : Word16}
    {p : Word32} (hp : p = mul32 N (widen f a) (widen f b)) :
    fmaNarrow N f ovfEn a b c =
      if ovfEn && isInf (narrowDesc f) (narrow f p).toNat then narrow f p
      else if ovfEn && isInf (narrowDesc f) (narrow f (widen f c)).toNat then narrow f (widen f c)
      else narrow f (add32 N p (widen f c)) := by
  subst hp
  cases ovfEn
  case false => exact fmaNarrow_policy_off N f a b c
  case true =>
    simp only [fmaNarrow, if_true, overflowPolicy, Bool.true_and]
    cases isInf (narrowDesc f) (narrow f (mul32 N (widen f a) (widen f b))).toNat
    · cases isInf (narrowDesc f) (narrow f (widen f c)).toNat <;> rfl
    · rfl

/-- Settles O53: the three exits in their order. -/
theorem overflowPolicyTestsTheProductFirst : Obligations.OverflowPolicyTestsTheProductFirst := by
  rintro N f a b c np nc rfl rfl
  refine ⟨fun hp => ?_, fun hp hc => ?_, fun hp hc => ?_, fmaNarrow_policy_off N f a b c⟩
  · simp only [fmaNarrow_eq_ite N f true rfl, hp, Bool.and_self, if_true]
  · simp only [fmaNarrow_eq_ite N f true rfl, hp, hc, Bool.and_self, Bool.and_false, if_true,
      Bool.false_eq_true, if_false]
  · simp only [fmaNarrow_eq_ite N f true rfl, hp, hc, Bool.and_false, Bool.false_eq_true, if_false,
      fmaNarrow_policy_off]

/-! ### Values for every choice of NaNs -/

/-- A multiply-add computed with `REF_NAN`, of which neither the product nor the sum is a NaN, is that
of every choice of NaNs. -/
theorem fmaNarrow_eq_of_refNan {f : NarrowFmt} {ovfEn : Bool} {a b c v : Word16}
    (h : isNan fp32 (mul32 refNan (widen f a) (widen f b)).toNat = false ∧
      isNan fp32 (add32 refNan (mul32 refNan (widen f a) (widen f b)) (widen f c)).toNat = false ∧
      fmaNarrow refNan f ovfEn a b c = v) (N : NanParams) :
    fmaNarrow N f ovfEn a b c = v := by
  obtain ⟨hmul, hadd, hv⟩ := h
  rw [← hv, fmaNarrow_eq_ite N f ovfEn rfl, fmaNarrow_eq_ite refNan f ovfEn rfl,
    mul32_eq_of_not_nan hmul N, add32_eq_of_not_nan hadd N]

/-- Settles O58: the values of the five rows meet no NaN. -/
theorem twoRoundingsNotOne : Obligations.TwoRoundingsNotOne := by
  refine fun N o => ⟨⟨?_, ?_⟩, ⟨?_, ?_⟩, ?_, ⟨?_, ?_⟩, ?_⟩
  · exact mul32_eq_of_refNan (by decide +kernel) N
  · exact add32_mul32_eq_of_refNan (p := 0x3F801000#32) (by decide +kernel) N
  · exact mul32_eq_of_refNan (by decide +kernel) N
  · exact add32_mul32_eq_of_refNan (p := 0x4108A2C0#32) (by decide +kernel) N
  · exact add32_mul32_eq_of_refNan (p := 0x7F800000#32) (by decide +kernel) N
  · exact mul32_eq_of_refNan (by decide +kernel) N
  · exact add32_mul32_eq_of_refNan (p := 0x80000000#32) (by decide +kernel) N
  · exact fmaNarrow_eq_of_refNan (by cases o <;> decide +kernel) N

/-! ### The instructions -/

theorem exec_fmaFp16 (ovfEn : Bool) (s : State) :
    exec (.fmaFp16 ovfEn) s = .next (respond s (zext32
      (fmaNarrow Config.nan .fp16 ovfEn (low16 s.req.a) (low16 s.req.b) (low16 s.req.c)))) :=
  exec_eq_respond _ s

theorem exec_fmaBf16 (ovfEn : Bool) (s : State) :
    exec (.fmaBf16 ovfEn) s = .next (respond s (zext32
      (fmaNarrow Config.nan .bf16 ovfEn (low16 s.req.a) (low16 s.req.b) (low16 s.req.c)))) :=
  exec_eq_respond _ s

/-- Settles O21: `exec` is `respond`, with the three exits of the multiply-add; the values of the rule
meet no NaN. -/
theorem fmaFp16Completes : Obligations.FmaFp16Completes := by
  refine ⟨?exec, fun N o => ⟨?_, ?_, ?_, ?_, ?_, ?_, ?_, ?_, ?_, ?_, ?_⟩⟩
  case exec =>
    rintro ovfEn s A B C p np nc rfl rfl rfl rfl rfl rfl
    rw [exec_fmaFp16, fmaNarrow_eq_ite _ _ _ rfl, respond_eq]
    rfl
  · exact fmaNarrow_eq_of_refNan (by decide +kernel) N
  · exact fmaNarrow_eq_of_refNan (by decide +kernel) N
  · exact fmaNarrow_eq_of_refNan (by decide +kernel) N
  · exact fmaNarrow_eq_of_refNan (by decide +kernel) N
  · exact fmaNarrow_eq_of_refNan (by cases o <;> decide +kernel) N
  · exact fmaNarrow_eq_of_refNan (by cases o <;> decide +kernel) N
  · exact fmaNarrow_eq_of_refNan (by cases o <;> decide +kernel) N
  · exact fmaNarrow_eq_of_refNan (by cases o <;> decide +kernel) N
  · exact fmaNarrow_eq_of_refNan (by cases o <;> decide +kernel) N
  · exact fmaNarrow_eq_of_refNan (by cases o <;> decide +kernel) N
  · exact fmaNarrow_eq_of_refNan (by cases o <;> decide +kernel) N

/-- The BF16 widening as the shift of a zero-extended pattern (R62). -/
theorem widenBf16_eq_shiftLeft (x : Word16) : widenBf16 x = x.zeroExtend 32 <<< 16 := by
  have hlow : low16 (x.zeroExtend 32) = x := low16_zext32 x
  rw [← widenBf16_low16, hlow]

/-- Settles O22: as for FP16, with the shift as the widening. -/
theorem fmaBf16Completes : Obligations.FmaBf16Completes := by
  refine ⟨?exec, fun N o => ⟨?_, ?_, ?_, ?_, ?_, ?_, ?_, ?_, ?_, ?_, ?_⟩⟩
  case exec =>
    intro ovfEn s A B C p np nc hA hB hC hp hnp hnc
    rw [← widenBf16_eq_shiftLeft] at hA hB hC
    subst hA hB hC hp hnp hnc
    rw [exec_fmaBf16, fmaNarrow_eq_ite _ _ _ rfl, respond_eq]
    rfl
  · exact fmaNarrow_eq_of_refNan (by cases o <;> decide +kernel) N
  · exact fmaNarrow_eq_of_refNan (by cases o <;> decide +kernel) N
  · exact fmaNarrow_eq_of_refNan (by cases o <;> decide +kernel) N
  · exact fmaNarrow_eq_of_refNan (by cases o <;> decide +kernel) N
  · exact mul32_eq_of_refNan (by decide +kernel) N
  · exact mul32_eq_of_refNan (by decide +kernel) N
  · exact fmaNarrow_eq_of_refNan (by decide +kernel) N
  · exact fmaNarrow_eq_of_refNan (by decide +kernel) N
  · exact fmaNarrow_eq_of_refNan (by decide +kernel) N
  · exact fmaNarrow_eq_of_refNan (by decide +kernel) N
  · exact fmaNarrow_eq_of_refNan (by cases o <;> decide +kernel) N

end Sys2Proof.Machine
end

section
/-! PROOFS. The open NaN patterns (R106): they range over the FP32 NaNs, and they are all of an answer
that is open. -/

namespace Sys2Proof.Machine

/-! ### The range of the parameters -/

theorem fieldsOf_nanPattern (c : NanChoice) :
    fieldsOf fp32 (nanPattern c).toNat = (c.sign, 255, c.payload.val + 1) :=
  fieldsOf_ofNat_pack c.sign (by decide) (by have := c.payload.isLt; omega)

/-- The choice of an FP32 NaN: its sign, and its mantissa less one (R106). -/
theorem exists_nanPattern_eq {w : Word32} (h : isNan fp32 w.toNat = true) :
    ∃ c : NanChoice, nanPattern c = w := by
  obtain ⟨he, hm⟩ := (isNan_iff fp32 _ (by decide)).mp h
  have hman : manOf fp32 w.toNat < 2 ^ 23 := manOf_lt fp32 w.toNat
  refine ⟨⟨signOf fp32 w.toNat, ⟨manOf fp32 w.toNat - 1, by omega⟩⟩, eq_of_fieldsOf_fp32_eq ?_⟩
  rw [fieldsOf_nanPattern, eq_comm, fieldsOf_eq_iff]
  exact ⟨rfl, he, (Nat.sub_add_cancel (Nat.pos_of_ne_zero hm)).symm⟩

/-- Settles O51: the fields of a choice, and the choice of a pattern's fields. -/
theorem nanParametersRangeOverTheNans : Obligations.NanParametersRangeOverTheNans := by
  refine ⟨fun c => ?_, fun w => exists_nanPattern_eq⟩
  obtain ⟨-, he, hm⟩ := fieldsOf_eq_iff.mp (fieldsOf_nanPattern c)
  exact ⟨he, by omega⟩

/-! ### Results that differ in a NaN pattern only -/

/-- Two results are one, or both are NaNs of the format (R106). -/
def SameUpToNan (F : FormatDesc) {n : Nat} (v w : BitVec n) : Prop :=
  v = w ∨ isNan F v.toNat = true ∧ isNan F w.toNat = true

/-- Where one of two results can only differ from the other if it is a NaN, and the other way round. -/
theorem sameUpToNan_of_imp {F : FormatDesc} {n : Nat} {v w : BitVec n}
    (hv : isNan F v.toNat = false → w = v) (hw : isNan F w.toNat = false → v = w) :
    SameUpToNan F v w := by
  cases hnv : isNan F v.toNat with
  | false => exact .inl (hv hnv).symm
  | true =>
    cases hnw : isNan F w.toNat with
    | false => exact .inl (hw hnw)
    | true => exact .inr ⟨hnv, hnw⟩

theorem isInf_eq_false_of_isNan {F : FormatDesc} {x : Nat} (h : isNan F x = true) :
    isInf F x = false := by
  have hclass : classOf F x = .nan := by simpa [isNan] using h
  rw [isInf, hclass]
  rfl

theorem mul32_sameUpToNan (N K : NanParams) (x y : Word32) :
    SameUpToNan fp32 (mul32 N x y) (mul32 K x y) :=
  sameUpToNan_of_imp (fun h => mul32_eq_of_not_nan h K) (fun h => mul32_eq_of_not_nan h N)

theorem add32_of_isNan (N : NanParams) {x y : Word32}
    (h : isNan fp32 x.toNat = true ∨ isNan fp32 y.toNat = true) :
    add32 N x y = nanPattern (N.add x y) := by
  rw [add32, if_pos h]

/-- A sum with a NaN operand is a NaN (R104). -/
theorem isNan_add32_of_isNan (N : NanParams) {x y : Word32}
    (h : isNan fp32 x.toNat = true ∨ isNan fp32 y.toNat = true) :
    isNan fp32 (add32 N x y).toNat = true := by
  rw [add32_of_isNan N h]
  exact isNan_nanPattern _

theorem add32_sameUpToNan (N K : NanParams) {x z : Word32} (h : SameUpToNan fp32 x z) (y : Word32) :
    SameUpToNan fp32 (add32 N x y) (add32 K z y) := by
  obtain rfl | ⟨hx, hz⟩ := h
  · exact sameUpToNan_of_imp (fun h => add32_eq_of_not_nan h K) (fun h => add32_eq_of_not_nan h N)
  · exact .inr ⟨isNan_add32_of_isNan N (.inl hx), isNan_add32_of_isNan K (.inl hz)⟩

theorem narrow_sameUpToNan (f : NarrowFmt) {v w : Word32} (h : SameUpToNan fp32 v w) :
    SameUpToNan (narrowDesc f) (narrow f v) (narrow f w) := by
  obtain rfl | ⟨hv, hw⟩ := h
  · exact .inl rfl
  · exact .inr ⟨(isNan_narrow_of_nan f hv).1, (isNan_narrow_of_nan f hw).1⟩

/-- A NaN product never fires the policy, so that the exits taken are the same ones (R107 to R109). -/
theorem fmaNarrow_sameUpToNan (N K : NanParams) (f : NarrowFmt) (ovfEn : Bool) (a b c : Word16) :
    SameUpToNan (narrowDesc f) (fmaNarrow N f ovfEn a b c) (fmaNarrow K f ovfEn a b c) := by
  have hmul := mul32_sameUpToNan N K (widen f a) (widen f b)
  have hsum := narrow_sameUpToNan f (add32_sameUpToNan N K hmul (widen f c))
  rw [fmaNarrow_eq_ite N f ovfEn rfl, fmaNarrow_eq_ite K f ovfEn rfl]
  obtain heq | ⟨hN, hK⟩ := hmul
  · rw [heq] at hsum ⊢
    split
    · exact .inl rfl
    split
    · exact .inl rfl
    · exact hsum
  · simp only [isInf_eq_false_of_isNan (isNan_narrow_of_nan f hN).1,
      isInf_eq_false_of_isNan (isNan_narrow_of_nan f hK).1, Bool.and_false, Bool.false_eq_true,
      if_false]
    split
    · exact .inl rfl
    · exact hsum

theorem toNat_zext32 (w : Word16) : (zext32 w).toNat = w.toNat :=
  BitVec.toNat_setWidth_of_le (by decide)

theorem zext32_sameUpToNan {F : FormatDesc} {v w : Word16} (h : SameUpToNan F v w) :
    SameUpToNan F (zext32 v) (zext32 w) := by
  obtain rfl | hnan := h
  · exact .inl rfl
  · exact .inr (by rwa [toNat_zext32, toNat_zext32])

/-! ### Answers -/

/-- The result of an operation differs between two choices of NaNs only if it is a multiply-add whose
results are NaNs of its format (R106). -/
theorem resultOf_sameUpToNan (N K : NanParams) (i : Instr) (r : Request) :
    resultOf N i r = resultOf K i r ∨
      i.op = .fma ∧ SameUpToNan (descOf i.fmt) (resultOf N i r) (resultOf K i r) := by
  cases i
  case fmaFp32 => exact .inr ⟨rfl, add32_sameUpToNan N K (mul32_sameUpToNan N K _ _) _⟩
  case fmaFp16 o => exact .inr ⟨rfl, zext32_sameUpToNan (fmaNarrow_sameUpToNan N K .fp16 o _ _ _)⟩
  case fmaBf16 o => exact .inr ⟨rfl, zext32_sameUpToNan (fmaNarrow_sameUpToNan N K .bf16 o _ _ _)⟩
  case widenFp16 => exact .inl rfl
  case widenBf16 => exact .inl rfl
  case narrowFp16 => exact .inl rfl
  case narrowBf16 => exact .inl rfl

/-- Settles O52: the answers are the results of one decoded command, or both the fault. -/
theorem onlyNanPatternsAreOpen : Obligations.OnlyNanPatternsAreOpen := by
  intro N K r
  cases hdec : decode (cmdOf r) with
  | error e => exact .inl (by rw [answer_of_decode_error N hdec, answer_of_decode_error K hdec])
  | ok i =>
    rw [answer_of_decode_ok N hdec, answer_of_decode_ok K hdec]
    obtain hsame | ⟨hop, hsame | ⟨hN, hK⟩⟩ := resultOf_sameUpToNan N K i r
    · exact .inl (by rw [hsame])
    · exact .inl (by rw [hsame])
    · obtain ⟨hopc, hfmt, -⟩ := fields_of_decode_packCmd hdec
      exact .inr ⟨i.fmt, _, _, rfl, rfl, hopc.trans (congrArg opCode hop), hfmt, hN, hK⟩

end Sys2Proof.Machine
end

section
/-! PROOFS. When the two tests of the overflow policy fire (R109). -/

namespace Sys2Proof.Machine

/-- The infinities are the patterns with infinity's magnitude (R52). -/
theorem isInf_iff_magnitude {F : FormatDesc} (hF : 0 < emax F) (x : Nat) :
    isInf F x = true ↔ x % 2 ^ (F.M + F.E) = emax F * 2 ^ F.M := by
  have hman := manOf_lt F x
  have hexp : (expOf F x * 2 ^ F.M + manOf F x) / 2 ^ F.M = expOf F x := by
    rw [Nat.mul_comm, Nat.mul_add_div (Nat.two_pow_pos _), Nat.div_eq_of_lt hman, Nat.add_zero]
  rw [isInf_iff F x hF, ← expOf_mul_add_manOf]
  constructor
  · rintro ⟨he, hm⟩
    rw [he, hm, Nat.add_zero]
  · intro hmag
    rw [hmag, Nat.mul_div_cancel _ (Nat.two_pow_pos _)] at hexp
    rw [← hexp] at hmag
    exact ⟨hexp.symm, Nat.add_eq_left.mp hmag⟩

/-- A pattern that is no NaN is an infinity, a zero or subnormal, or a normal (R52). -/
theorem fp32_cases_of_not_nan {p : Word32} (h : isNan fp32 p.toNat = false) :
    expOf fp32 p.toNat = 255 ∧ manOf fp32 p.toNat = 0 ∨ expOf fp32 p.toNat = 0 ∨
      1 ≤ expOf fp32 p.toNat ∧ expOf fp32 p.toNat ≤ 254 := by
  have hlt : expOf fp32 p.toNat < 2 ^ 8 := expOf_lt fp32 p.toNat
  have hnan : ¬ (expOf fp32 p.toNat = 255 ∧ manOf fp32 p.toNat ≠ 0) := fun hn => by
    rw [(isNan_iff fp32 _ (by decide)).mpr hn] at h
    cases h
  omega

/-- A threshold for the normals is one for every pattern that is no NaN: the zeros and subnormals are
below it, and infinity is not (R81, R82). -/
theorem isInf_narrow_iff_of_normal (f : NarrowFmt) {p : Word32} {T : ℕ}
    (h : isNan fp32 p.toNat = false) (hlow : 2 ^ 23 ≤ T) (hhigh : T ≤ 255 * 2 ^ 23)
    (hnormal : 1 ≤ expOf fp32 p.toNat → expOf fp32 p.toNat ≤ 254 →
      ((narrow f p).toNat % 2 ^ 15 = emax (narrowDesc f) * 2 ^ (narrowDesc f).M ↔
        T ≤ p.toNat % 2 ^ 31)) :
    isInf (narrowDesc f) (narrow f p).toNat = true ↔ T ≤ p.toNat % 2 ^ 31 := by
  obtain ⟨hmag, hman⟩ := fp32_magnitude_eq p
  have hmax := Nat.mul_pos (narrowDesc_emax_pos f) (Nat.two_pow_pos (narrowDesc f).M)
  rw [isInf_iff_magnitude (narrowDesc_emax_pos f), narrowDesc_magnitude_width]
  obtain ⟨he, hm⟩ | he | ⟨h1, h254⟩ := fp32_cases_of_not_nan h
  · rw [narrow_toNat_of_inf f he hm, Nat.mul_add_mod', Nat.mod_eq_of_lt (infinity_magnitude_lt f)]
    exact iff_of_true rfl (by omega)
  · rw [narrow_toNat_of_exp_zero f he, Nat.mul_mod_left]
    exact iff_of_false hmax.ne (by omega)
  · exact hnormal h1 h254

/-- A normal narrows to the FP16 infinity from 65520 on: that is half a unit below the first
magnitude whose exponent overflows, and the tie goes up (R84 to R86). -/
theorem narrowedMagnitude_fp16_eq_inf {e m : Nat} (hm : m < 2 ^ 23) :
    narrowedMagnitude fp16 ((e : Int) - 112) m = 31 * 2 ^ 10 ↔ 0x477FF000 ≤ e * 2 ^ 23 + m := by
  have hround : rneShift m 13 = 2 ^ 10 ↔ 0x7FF000 ≤ m := by
    rw [rneShift_cases m 13 (by decide)]
    split_ifs <;> omega
  have hle : rneShift m 13 ≤ 2 ^ 10 := rneShift_man_le (F := fp16) (by decide) hm
  rcases le_or_gt 143 e with hover | hrange
  · rw [narrowedMagnitude_of_overflow m (by show (31 : Int) ≤ _; omega)]
    exact iff_of_true rfl (by omega)
  rcases le_or_gt 113 e with hlow | hsub
  · have hval : narrowedMagnitude fp16 ((e : Int) - 112) m =
        ((e : Int) - 112).toNat * 2 ^ 10 + rneShift m 13 :=
      narrowedMagnitude_of_inRange m (by omega) (by show _ < (31 : Int); omega)
    rw [hval]
    omega
  have hsmall : narrowedMagnitude fp16 ((e : Int) - 112) m ≤ 2 ^ 10 := by
    rcases le_or_gt (1 - ((e : Int) - 112)) 10 with hsh | hsh
    · rw [narrowedMagnitude_of_underflow m (by decide) (by omega) hsh]
      exact rneShift_underflow_le (M := 10) (by decide) (by omega) hm
    · rw [narrowedMagnitude_of_tooSmall m (by decide) (by omega) hsh]
      exact Nat.zero_le _
  omega

/-- The FP16 test of the product (R109 item 1). -/
theorem isInf_narrowFp16_iff {p : Word32} (h : isNan fp32 p.toNat = false) :
    isInf fp16 (narrowFp16 p).toNat = true ↔ 0x477FF000 ≤ p.toNat % 2 ^ 31 := by
  obtain ⟨hmag, hman⟩ := fp32_magnitude_eq p
  refine isInf_narrow_iff_of_normal .fp16 h (by decide) (by decide) fun h1 h254 => ?_
  have hexp : (expOf fp32 p.toNat : Int) - 127 + (narrowDesc .fp16).bias =
      (expOf fp32 p.toNat : Int) - 112 := by
    show _ - 127 + (15 : Int) = _
    omega
  rw [narrow_mod_of_fp32_normal .fp16 h1 h254, hexp, hmag]
  exact narrowedMagnitude_fp16_eq_inf hman

/-- Below infinity the magnitude rounds up to the BF16 one from the tie above the largest BF16 pattern
on, whose mantissa is odd (R90, R109). -/
theorem rneShift_sixteen_eq_inf {v : Nat} (hv : v < 0x7F800000) :
    rneShift v 16 = 255 * 2 ^ 7 ↔ 0x7F7F8000 ≤ v := by
  rw [rneShift_cases v 16 (by decide)]
  split_ifs <;> omega

/-- The BF16 test of the product (R109 item 1). -/
theorem isInf_narrowBf16_iff {p : Word32} (h : isNan fp32 p.toNat = false) :
    isInf bf16 (narrowBf16 p).toNat = true ↔ 0x7F7F8000 ≤ p.toNat % 2 ^ 31 := by
  obtain ⟨hmag, hman⟩ := fp32_magnitude_eq p
  refine isInf_narrow_iff_of_normal .bf16 h (by decide) (by decide) fun h1 h254 => ?_
  obtain ⟨-, hle⟩ := narrowBf16_magnitude_bounds (v := p.toNat % 2 ^ 31) (by omega) (by omega)
  rw [narrow, narrowBf16_toNat_of_normal (by omega) (by omega), Nat.mul_add_mod',
    Nat.mod_eq_of_lt (hle.trans_lt (by decide))]
  exact rneShift_sixteen_eq_inf (by omega)

/-- The test of `c` (R109 item 2): off the BF16 subnormals, which are no infinities and narrow to
zeros, `c` comes back. -/
theorem isInf_narrow_widen (f : NarrowFmt) (c : Word16) :
    isInf (narrowDesc f) (narrow f (widen f c)).toNat = isInf (narrowDesc f) c.toNat := by
  obtain ⟨hfp16, hbf16, hsub⟩ := roundTrip
  cases f
  case fp16 => rw [narrow, widen, hfp16 c]
  case bf16 =>
    by_cases hc : classOf bf16 c.toNat = .subnormal
    · have hnot : isInf bf16 c.toNat = false := by rw [isInf, hc]; rfl
      rw [narrow, widen, hsub c hc, narrowDesc, hnot]
      split <;> decide
    · rw [narrow, widen, hbf16 c hc]

theorem narrow_widen_of_isInf (f : NarrowFmt) {c : Word16}
    (h : isInf (narrowDesc f) c.toNat = true) : narrow f (widen f c) = c := by
  have hclass : classOf (narrowDesc f) c.toNat = .infinity := by simpa [isInf] using h
  exact narrow_widen_of_not_subnormal f (by rw [hclass]; decide)

/-- Settles O54: the two thresholds, NaNs that stay NaNs, and an infinite `c` that comes back. -/
theorem whenTheOverflowTestsFire : Obligations.WhenTheOverflowTestsFire :=
  ⟨fun _ h => ⟨isInf_narrowFp16_iff h, isInf_narrowBf16_iff h⟩,
    fun _ h => ⟨isInf_eq_false_of_isNan (isNan_narrow_of_nan .fp16 h).1,
      isInf_eq_false_of_isNan (isNan_narrow_of_nan .bf16 h).1⟩,
    fun f c => ⟨isInf_narrow_widen f c, narrow_widen_of_isInf f⟩⟩

end Sys2Proof.Machine
end

section
/-! PROOFS. `RNE_int` (R9), and the rounding of the machine as that of R102 over exact reals. -/

namespace Sys2Proof.Machine

/-! ### The nearest integer -/

/-- `RNE_int` is the floor, or one above it where the fraction is at least a half; on a half it is even
(R9). -/
theorem rneInt_cases (t : ℚ) :
    rneInt t = ⌊t⌋ ∧ t - ⌊t⌋ < 1 / 2 ∨ rneInt t = ⌊t⌋ + 1 ∧ 1 / 2 < t - ⌊t⌋ ∨
      (rneInt t = ⌊t⌋ ∨ rneInt t = ⌊t⌋ + 1) ∧ t - ⌊t⌋ = 1 / 2 ∧ rneInt t % 2 = 0 := by
  unfold rneInt
  split
  · next h => exact .inl ⟨rfl, h⟩
  split
  · next h => exact .inr (.inl ⟨rfl, h⟩)
  · next hlt hgt =>
    have hhalf : t - ⌊t⌋ = 1 / 2 := le_antisymm (not_lt.mp hgt) (not_lt.mp hlt)
    split
    · next heven => exact .inr (.inr ⟨.inl rfl, hhalf, heven⟩)
    · exact .inr (.inr ⟨.inr rfl, hhalf, by omega⟩)

theorem rneInt_intCast (m : ℤ) : rneInt m = m := by
  rw [rneInt, Int.floor_intCast, sub_self, if_pos (by norm_num)]

/-- An integer below a real is not above its rounding. -/
theorem le_rneInt {t : ℚ} {m : ℤ} (h : m ≤ t) : m ≤ rneInt t := by
  have hfloor : m ≤ ⌊t⌋ := Int.le_floor.mpr h
  obtain ⟨hk, -⟩ | ⟨hk, -⟩ | ⟨hk, -⟩ := rneInt_cases t <;> omega

/-- An integer above a real is not below its rounding. -/
theorem rneInt_le {t : ℚ} {m : ℤ} (h : t ≤ m) : rneInt t ≤ m := by
  rcases h.lt_or_eq with hlt | rfl
  · have hfloor : ⌊t⌋ < m := Int.floor_lt.mpr hlt
    obtain ⟨hk, -⟩ | ⟨hk, -⟩ | ⟨hk, -⟩ := rneInt_cases t <;> omega
  · rw [rneInt_intCast]

/-- The rounding is at most a half away, and even if it is a half away (R9). -/
theorem rneInt_close (t : ℚ) :
    |rneInt t - t| ≤ 1 / 2 ∧ (|rneInt t - t| = 1 / 2 → rneInt t % 2 = 0) := by
  have h0 : (0 : ℚ) ≤ t - ⌊t⌋ := sub_nonneg.mpr (Int.floor_le t)
  have h1 : t - ⌊t⌋ < 1 := by linarith [Int.lt_floor_add_one t]
  obtain ⟨hk, hf⟩ | ⟨hk, hf⟩ | ⟨hk, hf, heven⟩ := rneInt_cases t
  · have hdist : |(rneInt t : ℚ) - t| = t - ⌊t⌋ := by rw [hk, abs_sub_comm, abs_of_nonneg h0]
    exact ⟨hdist ▸ hf.le, fun h => absurd (hdist ▸ h) hf.ne⟩
  · have hdist : |(rneInt t : ℚ) - t| = 1 - (t - ⌊t⌋) := by
      rw [hk, Int.cast_add, Int.cast_one, abs_of_nonneg] <;> linarith
    exact ⟨by linarith, fun h => by linarith⟩
  · refine ⟨abs_le.mpr ?_, fun _ => heven⟩
    obtain hk | hk := hk <;> rw [hk] <;> push_cast <;> constructor <;> linarith

/-- No integer is nearer, and one as near makes the rounding even (R9). -/
theorem rneInt_nearest (t : ℚ) (m : ℤ) :
    |rneInt t - t| ≤ |m - t| ∧ (|rneInt t - t| = |m - t| → m ≠ rneInt t → rneInt t % 2 = 0) := by
  obtain ⟨hclose, heven⟩ := rneInt_close t
  by_cases hm : m = rneInt t
  · exact ⟨by rw [hm], fun _ hne => absurd hm hne⟩
  · have hapart : (1 : ℚ) ≤ |(m : ℚ) - rneInt t| := by
      exact_mod_cast Int.one_le_abs (sub_ne_zero.mpr hm)
    have htriangle := abs_sub_le (m : ℚ) t (rneInt t)
    rw [abs_sub_comm t] at htriangle
    exact ⟨by linarith, fun heq _ => heven (by linarith)⟩

/-! ### The machine's rounding -/

/-- The binade of a dyadic rational (R102). -/
theorem intLog_natCast_div_two_pow {n : Nat} (hn : n ≠ 0) (d : Nat) :
    Int.log 2 ((n : ℚ) / 2 ^ d) = (Nat.log2 n : Int) - d := by
  have hpos : (0 : ℚ) < n / 2 ^ d := by positivity
  have hlow : (2 : ℚ) ^ Nat.log2 n ≤ n := by exact_mod_cast Nat.log2_self_le hn
  have hhigh : (n : ℚ) < 2 ^ (Nat.log2 n + 1) := by exact_mod_cast Nat.lt_log2_self
  apply le_antisymm
  · rw [← Int.lt_add_one_iff, ← Int.lt_zpow_iff_log_lt one_lt_two hpos, Nat.cast_ofNat,
      sub_add_eq_add_sub, zpow_sub₀ two_ne_zero, zpow_natCast]
    exact div_lt_div_of_pos_right hhigh (by positivity)
  · rw [← Int.zpow_le_iff_le_log one_lt_two hpos, Nat.cast_ofNat, zpow_sub₀ two_ne_zero,
      zpow_natCast, zpow_natCast]
    exact div_le_div_of_nonneg_right hlow (by positivity)

/-- Scaling and rounding as `RNE_int` of the scaled value (R75). -/
theorem rneScale_eq_rneInt (n : Nat) (sh : Int) :
    (rneScale n sh : Int) = rneInt ((n : ℚ) / 2 ^ sh) := by
  unfold rneScale
  split
  · next h =>
    obtain ⟨k, rfl⟩ := Int.eq_ofNat_of_zero_le h
    exact rneShift_eq_rneInt n k
  · next h =>
    obtain ⟨k, hk⟩ := Int.eq_ofNat_of_zero_le (show 0 ≤ -sh by omega)
    have hsh : sh = -(k : Int) := by omega
    have hexact : (n : ℚ) / 2 ^ sh = ((n * 2 ^ k : Nat) : Int) := by
      rw [hsh, zpow_neg, zpow_natCast, div_inv_eq_mul]
      push_cast
      rfl
    rw [hexact, rneInt_intCast, hk, Int.toNat_natCast, Nat.shiftLeft_eq]

/-- `bits` of R102 in the machine's integers. -/
theorem realBits_natCast_div_two_pow {n : Nat} (hn : n ≠ 0) (d : Nat) {q : Int}
    (hq : q = max ((Nat.log2 n : Int) - d) (1 - fp32.bias)) :
    realBits ((n : ℚ) / 2 ^ d) =
      (((q + fp32.bias - 1).toNat <<< fp32.M + rneScale n (q - fp32.M + d) : Nat) : Int) := by
  have hbinade : binadeOf ((n : ℚ) / 2 ^ d) = q := by
    rw [binadeOf, intLog_natCast_div_two_pow hn, hq]
    rfl
  have hscaled : (n : ℚ) / 2 ^ d / 2 ^ (q - 23) = n / 2 ^ (q - fp32.M + d) := by
    rw [zpow_add₀ two_ne_zero, zpow_natCast, div_div, mul_comm]
    rfl
  have htop : (((q + fp32.bias - 1).toNat : Nat) : Int) = q + 126 := by
    simp only [fp32] at hq ⊢
    omega
  rw [realBits, hbinade, hscaled, ← rneScale_eq_rneInt, Nat.shiftLeft_eq]
  push_cast
  rw [htop]
  rfl

theorem roundTo_fp32_eq (s : Bool) {n : Nat} (hn : n ≠ 0) (d : Nat) :
    (roundTo fp32 s n d : Int) =
      s.toNat * 2 ^ 31 + min (realBits ((n : ℚ) / 2 ^ d)) 0x7F800000 := by
  have hclip : ∀ a b : Nat, (if a ≥ b then b else a) = min a b := fun a b => by split <;> omega
  rw [realBits_natCast_div_two_pow hn d rfl]
  simp only [roundTo, if_neg hn, hclip]
  rw [pack_exp_zero _ _ ((Nat.min_le_right _ _).trans_lt (by decide))]
  push_cast
  rfl

/-- Settles O46: zero apart, both are the sign beside one number of bits. -/
theorem roundThirtyTwoIsTheRealRounding : Obligations.RoundThirtyTwoIsTheRealRounding := by
  intro s n d
  by_cases hn : n = 0
  · subst hn
    simp only [round32, roundTo, realRound32, Nat.cast_zero, zero_div, if_true]
    cases s <;> decide
  · have hr : (n : ℚ) / 2 ^ d ≠ 0 := by positivity
    rw [realRound32, if_neg hr, ← roundTo_fp32_eq s hn, BitVec.ofInt_natCast, round32]

end Sys2Proof.Machine
end

section
/-! PROOFS. What `round32` gives over exact reals (R102): the sign beside a magnitude, infinity from
`2^128 - 2^103` on, and below it the nearest FP32 value, the even one on a tie. -/

namespace Sys2Proof.Machine

/-! ### The binade and the bits -/

/-- The last place of the binade of `r`: the unit that `round32` rounds to (R102). -/
def placeOf (r : ℚ) : ℚ := 2 ^ (binadeOf r - 23)

/-- The rounded significand `round32` keeps, a whole number of last places (R102). -/
def significandOf (r : ℚ) : ℤ := rneInt (r / placeOf r)

theorem placeOf_pos (r : ℚ) : 0 < placeOf r := zpow_pos two_pos _

theorem realBits_eq (r : ℚ) : realBits r = (binadeOf r + 126) * 2 ^ 23 + significandOf r := rfl

theorem neg_126_le_binadeOf (r : ℚ) : -126 ≤ binadeOf r := le_max_right _ _

/-- A real is below the end of its binade. -/
theorem lt_two_pow_binadeOf (r : ℚ) : r < 2 ^ (binadeOf r + 1) := by
  have hlog : r < 2 ^ (Int.log 2 r + 1) := by exact_mod_cast Int.lt_zpow_succ_log_self one_lt_two r
  exact hlog.trans_le (zpow_le_zpow_right₀ one_le_two (add_le_add_left (le_max_left _ _) 1))

/-- Above the subnormal binade a real is not below the start of its own. -/
theorem two_pow_binadeOf_le {r : ℚ} (hr : 0 < r) (hb : -126 < binadeOf r) : 2 ^ binadeOf r ≤ r := by
  have hlog : binadeOf r = Int.log 2 r := by
    unfold binadeOf at hb ⊢
    omega
  rw [hlog]
  exact_mod_cast Int.zpow_log_le_self one_lt_two hr

/-- A real above the top binade is not below its end. -/
theorem two_pow_128_le {r : ℚ} (hr : 0 < r) (hb : 128 ≤ binadeOf r) : 2 ^ 128 ≤ r := by
  have hpow : (2 : ℚ) ^ (128 : ℤ) ≤ 2 ^ binadeOf r := zpow_le_zpow_right₀ one_le_two hb
  exact_mod_cast hpow.trans (two_pow_binadeOf_le hr (by omega))

/-- The last place in units. -/
theorem placeOf_eq_units {r : ℚ} {g : ℕ} (hg : binadeOf r + 126 = g) :
    placeOf r = 2 ^ g / 2 ^ 149 := by
  rw [placeOf, show binadeOf r - 23 = (g : ℤ) - (149 : ℕ) by omega, zpow_sub₀ two_ne_zero,
    zpow_natCast, zpow_natCast]

/-- The significand of the start of a binade, in last places. -/
theorem two_pow_23_mul_placeOf (r : ℚ) : 2 ^ 23 * placeOf r = 2 ^ binadeOf r := by
  rw [placeOf, ← zpow_natCast, ← zpow_add₀ two_ne_zero]
  exact congrArg _ (add_sub_cancel _ _)

theorem two_pow_24_mul_placeOf (r : ℚ) : 2 ^ 24 * placeOf r = 2 ^ (binadeOf r + 1) := by
  rw [zpow_add_one₀ two_ne_zero, ← two_pow_23_mul_placeOf]
  ring

/-- The significand before rounding is below `2 ^ 24` last places. -/
theorem div_placeOf_lt (r : ℚ) : r / placeOf r < 2 ^ 24 := by
  rw [div_lt_iff₀ (placeOf_pos r), two_pow_24_mul_placeOf]
  exact lt_two_pow_binadeOf r

/-- The rounded significand has at most 24 bits, or carries out of them; above the subnormal binade it
has no fewer (R102, R105). -/
theorem significandOf_bounds {r : ℚ} (hr : 0 < r) :
    0 ≤ significandOf r ∧ significandOf r ≤ 2 ^ 24 ∧
      (-126 < binadeOf r → 2 ^ 23 ≤ significandOf r) := by
  have hp := placeOf_pos r
  refine ⟨le_rneInt ?_, rneInt_le ?_, fun hb => le_rneInt ?_⟩
  · rw [Int.cast_zero]
    positivity
  · rw [Int.cast_pow, Int.cast_ofNat]
    exact (div_placeOf_lt r).le
  · rw [Int.cast_pow, Int.cast_ofNat, le_div_iff₀ hp, two_pow_23_mul_placeOf]
    exact two_pow_binadeOf_le hr hb

theorem realBits_nonneg {r : ℚ} (hr : 0 < r) : 0 ≤ realBits r := by
  obtain ⟨h0, -, -⟩ := significandOf_bounds hr
  have hb := neg_126_le_binadeOf r
  rw [realBits_eq]
  omega

/-! ### The pattern -/

/-- The magnitude of `round32(s, r)`, whatever the sign (R102). -/
def roundedMagnitude (r : ℚ) : ℕ := if r = 0 then 0 else (min (realBits r) 0x7F800000).toNat

theorem roundedMagnitude_le (r : ℚ) : roundedMagnitude r ≤ 0x7F800000 := by
  unfold roundedMagnitude
  split <;> omega

theorem realRound32_toNat (s : Bool) {r : ℚ} (hr : 0 ≤ r) :
    (realRound32 s r).toNat = s.toNat * 2 ^ 31 + roundedMagnitude r := by
  have hs := Bool.toNat_le s
  have hle := roundedMagnitude_le r
  have hint : realRound32 s r =
      BitVec.ofInt 32 ((s.toNat * 2 ^ 31 + roundedMagnitude r : ℕ) : ℤ) := by
    unfold realRound32 roundedMagnitude
    split
    · rw [Nat.add_zero, Nat.cast_mul, Nat.cast_pow, Nat.cast_ofNat]
    · next h0 =>
      have hbits := realBits_nonneg (lt_of_le_of_ne hr (Ne.symm h0))
      congr 1
      omega
  rw [hint, BitVec.ofInt_natCast, BitVec.toNat_ofNat, Nat.mod_eq_of_lt (by omega)]

theorem msb_realRound32 (s : Bool) {r : ℚ} (hr : 0 ≤ r) : (realRound32 s r).msb = s := by
  have hle := roundedMagnitude_le r
  rw [BitVec.msb_eq_decide, realRound32_toNat s hr]
  cases s
  · exact decide_eq_false (by rw [Bool.toNat_false]; omega)
  · exact decide_eq_true (by rw [Bool.toNat_true]; omega)

theorem realRound32_mod (s : Bool) {r : ℚ} (hr : 0 ≤ r) :
    (realRound32 s r).toNat % 2 ^ 31 = roundedMagnitude r := by
  have hle := roundedMagnitude_le r
  rw [realRound32_toNat s hr]
  omega

/-! ### Overflow -/

/-- In the top binade the significand carries from the middle of its last place on: that middle is a
tie, and the significand below it is odd (R102). -/
theorem rneInt_lt_two_pow_24_iff {t : ℚ} (ht : t < 2 ^ 24) :
    rneInt t < 2 ^ 24 ↔ t < 2 ^ 24 - 1 / 2 := by
  obtain ⟨hclose, heven⟩ := rneInt_close t
  have hnear := abs_le.mp hclose
  constructor
  · intro hlt
    by_contra hge
    have hk : rneInt t = 2 ^ 24 - 1 := by
      have htop : (2 : ℤ) ^ 24 - 2 < rneInt t := by
        exact_mod_cast (by linarith : (2 : ℚ) ^ 24 - 2 < rneInt t)
      omega
    have htie : t = 2 ^ 24 - 1 / 2 := by
      have hkq : (rneInt t : ℚ) = 2 ^ 24 - 1 := by rw [hk]; norm_num
      linarith
    have hodd := heven (by rw [hk, htie]; norm_num)
    omega
  · intro hlt
    exact_mod_cast (by linarith : (rneInt t : ℚ) < 2 ^ 24)

/-- The overflow threshold of R102: half a last place below the end of the top binade. -/
theorem realBits_lt_iff {r : ℚ} (hr : 0 < r) :
    realBits r < 0x7F800000 ↔ r < 2 ^ 128 - 2 ^ 103 := by
  obtain ⟨-, h24, h23⟩ := significandOf_bounds hr
  have hend := lt_two_pow_binadeOf r
  rw [realBits_eq]
  rcases lt_trichotomy (binadeOf r) 127 with hb | hb | hb
  · have hpow : (2 : ℚ) ^ (binadeOf r + 1) ≤ 2 ^ (127 : ℤ) :=
      zpow_le_zpow_right₀ one_le_two (by omega)
    refine iff_of_true (by omega) (hend.trans_le (hpow.trans ?_))
    norm_num
  · have hplace : placeOf r = 2 ^ 104 := by
      rw [placeOf, hb]
      norm_num
    have hquot : r / placeOf r < 2 ^ 24 - 1 / 2 ↔ r < 2 ^ 128 - 2 ^ 103 := by
      rw [div_lt_iff₀ (placeOf_pos r), hplace]
      norm_num
    rw [← hquot, ← rneInt_lt_two_pow_24_iff (div_placeOf_lt r), hb]
    change _ ↔ significandOf r < 2 ^ 24
    omega
  · have hstart := two_pow_128_le hr (by omega)
    have hsig := h23 (by omega)
    refine iff_of_false (by omega) (not_lt.mpr (le_trans ?_ hstart))
    norm_num

/-! ### The value below overflow -/

/-- Exponent field and significand of a result below infinity: `g` binades up, `k` last places. -/
theorem exists_fields_of_realBits_lt {r : ℚ} (hr : 0 < r) (hbits : realBits r < 0x7F800000) :
    ∃ g k : ℕ, binadeOf r + 126 = g ∧ significandOf r = k ∧ k ≤ 2 ^ 24 ∧ (0 < g → 2 ^ 23 ≤ k) ∧
      g * 2 ^ 23 + k < 255 * 2 ^ 23 ∧ roundedMagnitude r = g * 2 ^ 23 + k := by
  have hb := neg_126_le_binadeOf r
  obtain ⟨h0, h24, h23⟩ := significandOf_bounds hr
  have hmag : roundedMagnitude r = (min (realBits r) 0x7F800000).toNat := if_neg hr.ne'
  rw [realBits_eq] at hbits hmag
  refine ⟨(binadeOf r + 126).toNat, (significandOf r).toNat, ?_⟩
  omega

/-- A magnitude given as a significand of at most `2 ^ 24` last places, `g` binades up, is that many
units: where the significand carries, the next binade starts with the same value (R102). -/
theorem unitsOf_fp32_of_fields {x g k : ℕ} (hx : x % 2 ^ 31 = g * 2 ^ 23 + k) (hk : k ≤ 2 ^ 24)
    (hg : 0 < g → 2 ^ 23 ≤ k) (hlt : g * 2 ^ 23 + k < 255 * 2 ^ 23) :
    unitsOf fp32 x = k * 2 ^ g ∧ isFinite fp32 x = true := by
  have hfields : expOf fp32 x * 2 ^ 23 + manOf fp32 x = g * 2 ^ 23 + k :=
    (expOf_mul_add_manOf fp32 x).trans hx
  have hman : manOf fp32 x < 2 ^ 23 := manOf_lt fp32 x
  have hmax : emax fp32 = 255 := rfl
  refine ⟨?_, (isFinite_iff _ _).mpr (by omega)⟩
  by_cases hsub : k < 2 ^ 23
  · have hexp : expOf fp32 x = 0 := by omega
    have hg0 : g = 0 := by omega
    rw [unitsOf_of_exp_zero hexp, hg0, Nat.pow_zero, Nat.mul_one]
    omega
  by_cases hcarry : k = 2 ^ 24
  · have hexp : expOf fp32 x = g + 1 + 1 := by omega
    have hman0 : manOf fp32 x = 0 := by omega
    rw [unitsOf_of_exp_succ hexp, hman0, hcarry, Nat.add_zero, Nat.pow_succ 2 g]
    simp only [fp32]
    ring
  · have hexp : expOf fp32 x = g + 1 := by omega
    have hsig : 2 ^ 23 + manOf fp32 x = k := by omega
    rw [unitsOf_of_exp_succ hexp]
    exact congrArg (· * 2 ^ g) hsig

/-- A finite pattern has the sign of its value, and its units as the absolute value (R53). -/
theorem sign_and_abs_of_realOf {F : FormatDesc} (hF : 0 < F.bias + F.M) (hmax : 0 < emax F) {x : ℕ}
    {v : ℚ} (h : realOf F x = some v) :
    v = (-1) ^ (signOf F x).toNat * |v| ∧ |v| = unitsOf F x / 2 ^ unitScale F := by
  have hunits := realOf_eq_units hF (isFinite_of_realOf hmax h)
  rw [h, Option.some_inj, mul_div_assoc] at hunits
  have habs : |v| = unitsOf F x / 2 ^ unitScale F := by
    rw [hunits, abs_mul, abs_neg_one_pow, one_mul]
    exact abs_of_nonneg (by positivity)
  exact ⟨by rw [habs, ← hunits], habs⟩

theorem abs_of_realOf_fp32 {x : ℕ} {v : ℚ} (h : realOf fp32 x = some v) :
    |v| = unitsOf fp32 x / 2 ^ 149 :=
  (sign_and_abs_of_realOf (by decide) (by decide) h).2

/-- The value of a result below infinity: its significand, in last places (R102). -/
theorem realRound32_value (s : Bool) {r : ℚ} (hr : 0 < r) (hbits : realBits r < 0x7F800000) :
    ∃ v, realOf fp32 (realRound32 s r).toNat = some v ∧ |v| = significandOf r * placeOf r ∧
      (manOf fp32 (realRound32 s r).toNat : ℤ) % 2 = significandOf r % 2 := by
  obtain ⟨g, k, hg, hk, hk24, hk23, hlt, hmag⟩ := exists_fields_of_realBits_lt hr hbits
  have hmod := (realRound32_mod s hr.le).trans hmag
  obtain ⟨hunits, hfin⟩ := unitsOf_fp32_of_fields hmod hk24 hk23 hlt
  obtain ⟨v, hv⟩ := Option.isSome_iff_exists.mp ((realOf_isSome fp32 _ (by decide)).trans hfin)
  refine ⟨v, hv, ?_, ?_⟩
  · rw [abs_of_realOf_fp32 hv, hunits, placeOf_eq_units hg, hk]
    push_cast
    ring
  · have hman : manOf fp32 (realRound32 s r).toNat = (realRound32 s r).toNat % 2 ^ 23 := rfl
    omega

/-! ### Nearest -/

/-- On a grid of step `p`, rounding the quotient is nearest among the points of the grid, and nearer
than anything below a point of the grid that is itself not above `r`. -/
theorem rneInt_mul_nearest {p r u : ℚ} (hp : 0 < p)
    (hu : (∃ j : ℤ, u = j * p) ∨ ∃ j : ℤ, u < j * p ∧ j * p ≤ r) :
    |rneInt (r / p) * p - r| ≤ |u - r| ∧
      (|rneInt (r / p) * p - r| = |u - r| → u ≠ rneInt (r / p) * p → rneInt (r / p) % 2 = 0) := by
  have hscale : ∀ j : ℤ, |j * p - r| = |j - r / p| * p := fun j => by
    rw [← abs_of_pos hp, ← abs_mul, abs_of_pos hp, sub_mul, div_mul_cancel₀ _ hp.ne']
  obtain ⟨j, rfl⟩ | ⟨j, hlt, hle⟩ := hu
  · obtain ⟨hnear, htie⟩ := rneInt_nearest (r / p) j
    rw [hscale, hscale]
    refine ⟨mul_le_mul_of_nonneg_right hnear hp.le, fun heq hne => htie ?_ ?_⟩
    · exact mul_right_cancel₀ hp.ne' heq
    · rintro rfl
      exact hne rfl
  · obtain ⟨hnear, -⟩ := rneInt_nearest (r / p) j
    have hgrid : |rneInt (r / p) * p - r| ≤ |j * p - r| := by
      rw [hscale, hscale]
      exact mul_le_mul_of_nonneg_right hnear hp.le
    have hbelow : |j * p - r| < |u - r| := by
      rw [abs_sub_comm, abs_sub_comm u, abs_of_nonneg, abs_of_nonneg] <;> linarith
    exact ⟨hgrid.trans hbelow.le, fun heq => by linarith⟩

/-- A finite FP32 pattern is a whole number of the units of its own exponent, so of any smaller one. -/
theorem two_pow_dvd_unitsOf {x g : ℕ} (h : g = 0 ∨ 2 ^ (g + 23) ≤ unitsOf fp32 x) :
    2 ^ g ∣ unitsOf fp32 x := by
  have hman : manOf fp32 x < 2 ^ 23 := manOf_lt fp32 x
  obtain rfl | hle := h
  · exact one_dvd _
  cases he : expOf fp32 x with
  | zero =>
    rw [unitsOf_of_exp_zero he] at hle
    have hpow : 2 ^ 23 ≤ 2 ^ (g + 23) := Nat.pow_le_pow_right two_pos (by omega)
    omega
  | succ e =>
    rw [unitsOf_of_exp_succ he] at hle ⊢
    have hlt : 2 ^ (g + 23) < 2 ^ (e + 24) :=
      calc 2 ^ (g + 23) ≤ (2 ^ 23 + manOf fp32 x) * 2 ^ e := hle
        _ < 2 ^ 24 * 2 ^ e := Nat.mul_lt_mul_of_pos_right (by omega) (Nat.two_pow_pos e)
        _ = 2 ^ (e + 24) := by rw [← Nat.pow_add, Nat.add_comm]
    have hge : g ≤ e := by
      have := (Nat.pow_lt_pow_iff_right one_lt_two).mp hlt
      omega
    exact (Nat.pow_dvd_pow 2 hge).mul_left _

/-- Beside a real, the FP32 values are on the grid of its last place, or below the start of its
binade. -/
theorem abs_on_grid_or_below {r : ℚ} (hr : 0 < r) {z : ℕ} {u : ℚ} (hu : realOf fp32 z = some u) :
    (∃ j : ℤ, |u| = j * placeOf r) ∨ ∃ j : ℤ, |u| < j * placeOf r ∧ j * placeOf r ≤ r := by
  have hb := neg_126_le_binadeOf r
  obtain ⟨g, hg⟩ : ∃ g : ℕ, binadeOf r + 126 = g := ⟨(binadeOf r + 126).toNat, by omega⟩
  have hunits := abs_of_realOf_fp32 hu
  by_cases hgrid : g = 0 ∨ 2 ^ (g + 23) ≤ unitsOf fp32 z
  · obtain ⟨j, hj⟩ := two_pow_dvd_unitsOf hgrid
    refine .inl ⟨j, ?_⟩
    rw [hunits, hj, placeOf_eq_units hg]
    push_cast
    ring
  · obtain ⟨hg0, hlt⟩ := not_or.mp hgrid
    refine .inr ⟨2 ^ 23, ?_, ?_⟩ <;> rw [Int.cast_pow, Int.cast_ofNat]
    · have hltq : (unitsOf fp32 z : ℚ) < 2 ^ (g + 23) := by exact_mod_cast not_le.mp hlt
      rw [hunits, placeOf_eq_units hg, ← mul_div_assoc, ← pow_add, Nat.add_comm 23]
      exact div_lt_div_of_pos_right hltq (by positivity)
    · rw [two_pow_23_mul_placeOf]
      exact two_pow_binadeOf_le hr (by omega)

/-- `round32` of a positive real below overflow is nearest, and even on a tie (R102). -/
theorem realRound32_nearest_of_pos (s : Bool) {r : ℚ} (hr : 0 < r) (hlt : r < 2 ^ 128 - 2 ^ 103) :
    ∃ v, realOf fp32 (realRound32 s r).toNat = some v ∧
      ∀ (z : Word32) (u : ℚ), realOf fp32 z.toNat = some u → |(|v| - r)| ≤ |(|u| - r)| ∧
        (|(|v| - r)| = |(|u| - r)| → |u| ≠ |v| → manOf fp32 (realRound32 s r).toNat % 2 = 0) := by
  obtain ⟨v, hv, habs, hman⟩ := realRound32_value s hr ((realBits_lt_iff hr).mpr hlt)
  refine ⟨v, hv, fun z u hu => ?_⟩
  obtain ⟨hnear, htie⟩ := rneInt_mul_nearest (placeOf_pos r) (abs_on_grid_or_below hr hu)
  rw [habs]
  refine ⟨hnear, fun heq hne => ?_⟩
  have heven : significandOf r % 2 = 0 := htie heq hne
  omega

theorem realRound32_zero_toNat (s : Bool) : (realRound32 s 0).toNat = s.toNat * 2 ^ 31 := by
  rw [realRound32_toNat s le_rfl, roundedMagnitude, if_pos rfl, Nat.add_zero]

theorem isZero_realRound32_zero (s : Bool) : isZero fp32 (realRound32 s 0).toNat = true := by
  rw [realRound32_zero_toNat]
  cases s <;> decide

/-- Settles O47: the sign bit, infinity from the threshold on, and the nearest value below it; zero is
exact. -/
theorem roundThirtyTwoIsNearest : Obligations.RoundThirtyTwoIsNearest := by
  intro s n d r hr
  have h0 : 0 ≤ r := hr ▸ by positivity
  rw [roundThirtyTwoIsTheRealRounding s n d, ← hr]
  refine ⟨(signOf_fp32_eq_msb _).trans (msb_realRound32 s h0), fun hover => ?_, fun hlt => ?_⟩
  · have hpos : 0 < r := lt_of_lt_of_le (by norm_num) hover
    have hbits := (realBits_lt_iff hpos).not.mpr (not_lt.mpr hover)
    have hmod : (realRound32 s r).toNat % 2 ^ 31 = 255 * 2 ^ 23 := by
      rw [realRound32_mod s h0, roundedMagnitude, if_neg hpos.ne']
      omega
    exact (isInf_iff_magnitude (F := fp32) (by decide) _).mpr hmod
  · rcases h0.eq_or_lt with rfl | hpos
    · refine ⟨0, realOf_of_isZero _ _ (isZero_realRound32_zero s), fun z u _ => ?_⟩
      exact ⟨by simp, fun heq hne => absurd (by simpa using heq.symm) hne⟩
    · exact realRound32_nearest_of_pos s hpos hlt

end Sys2Proof.Machine
end

section
/-! PROOFS. What `round32` does not change: a real that 24 bits and FP32's range can hold is its own
rounding, so an FP32 pattern is that of its value, and nothing from the smallest subnormal on becomes a
zero (R102, R105). -/

namespace Sys2Proof.Machine

/-! ### Patterns by their values -/

/-- An FP32 pattern's exponent and mantissa are determined by its units (R53). -/
theorem fields_eq_of_unitsOf_eq {x y : Word32} (h : unitsOf fp32 x.toNat = unitsOf fp32 y.toNat) :
    expOf fp32 x.toNat = expOf fp32 y.toNat ∧ manOf fp32 x.toNat = manOf fp32 y.toNat := by
  have hx : manOf fp32 x.toNat < 2 ^ 23 := manOf_lt fp32 x.toNat
  have hy : manOf fp32 y.toNat < 2 ^ 23 := manOf_lt fp32 y.toNat
  have hnormal : ∀ {z : Word32} {k : ℕ}, expOf fp32 z.toNat = k + 1 →
      2 ^ 23 ≤ unitsOf fp32 z.toNat := fun hk => by
    obtain ⟨hunits, -, -⟩ := unitsOf_fp32_normal hk
    exact hunits ▸ (Nat.le_add_right _ _).trans (Nat.le_mul_of_pos_right _ (Nat.two_pow_pos _))
  cases hex : expOf fp32 x.toNat with
  | zero =>
    have hux := unitsOf_of_exp_zero hex
    cases hey : expOf fp32 y.toNat with
    | zero => exact ⟨rfl, by rw [← hux, h, unitsOf_of_exp_zero hey]⟩
    | succ l =>
      have := hnormal hey
      omega
  | succ k =>
    obtain ⟨hux, hlogx, -⟩ := unitsOf_fp32_normal hex
    cases hey : expOf fp32 y.toNat with
    | zero =>
      have := hnormal hex
      have := unitsOf_of_exp_zero hey
      omega
    | succ l =>
      obtain ⟨huy, hlogy, -⟩ := unitsOf_fp32_normal hey
      have hkl : k = l := by
        rw [h, hlogy] at hlogx
        omega
      subst hkl
      rw [hux, huy] at h
      exact ⟨rfl, Nat.add_left_cancel (Nat.mul_right_cancel (Nat.two_pow_pos k) h)⟩

/-- A sign and a finite value have one FP32 pattern (R53). -/
theorem eq_of_realOf_eq {x y : Word32} {v : ℚ} (hx : realOf fp32 x.toNat = some v)
    (hy : realOf fp32 y.toNat = some v) (hmsb : x.msb = y.msb) : x = y := by
  have hunits : (unitsOf fp32 x.toNat : ℚ) / 2 ^ 149 = unitsOf fp32 y.toNat / 2 ^ 149 := by
    rw [← abs_of_realOf_fp32 hx, ← abs_of_realOf_fp32 hy]
  obtain ⟨he, hm⟩ := fields_eq_of_unitsOf_eq
    (Nat.cast_injective ((div_left_inj' (by positivity)).mp hunits))
  exact eq_of_fieldsOf_fp32_eq (by rw [fieldsOf, fieldsOf, signOf_fp32_eq_msb, hmsb, he, hm,
    signOf_fp32_eq_msb])

/-- The significand and the binade of a finite value: at most `M + 1` bits, scaled (R53). -/
theorem exists_significand_of_realOf {F : FormatDesc} (hF : 0 < F.bias + F.M) (hmax : 0 < emax F)
    {x : ℕ} {v : ℚ} (h : realOf F x = some v) :
    ∃ m i : ℕ, |v| = m * 2 ^ ((i : ℤ) - unitScale F) ∧ m < 2 ^ (F.M + 1) ∧ i ≤ emax F - 2 := by
  have hman := manOf_lt F x
  have hexp : expOf F x + 1 < 2 ^ F.E := expOf_succ_lt (isFinite_of_realOf hmax h)
  have hscale : ∀ i : ℕ, (2 : ℚ) ^ ((i : ℤ) - unitScale F) = 2 ^ i / 2 ^ unitScale F := fun i => by
    rw [zpow_sub₀ two_ne_zero, zpow_natCast, zpow_natCast]
  obtain ⟨-, habs⟩ := sign_and_abs_of_realOf hF hmax h
  rw [habs]
  cases he : expOf F x with
  | zero =>
    refine ⟨manOf F x, 0, ?_, by rw [Nat.pow_succ]; omega, Nat.zero_le _⟩
    rw [unitsOf_of_exp_zero he, hscale, pow_zero, mul_one_div]
  | succ k =>
    refine ⟨2 ^ F.M + manOf F x, k, ?_, by rw [Nat.pow_succ]; omega, by unfold emax; omega⟩
    rw [unitsOf_of_exp_succ he, hscale]
    push_cast
    ring

/-! ### Exact results -/

/-- A real of 24 bits from the smallest subnormal's place up is a whole number of last places of its
binade. -/
theorem exists_int_mul_placeOf {r : ℚ} (hr : 0 < r) {m : ℕ} {j : ℤ} (hval : r = m * 2 ^ j)
    (hm : m < 2 ^ 24) (hj : -149 ≤ j) : ∃ k : ℤ, r = k * placeOf r := by
  have hlog : Int.log 2 r < j + 24 := by
    rw [← Int.lt_zpow_iff_log_lt one_lt_two hr, hval, Nat.cast_ofNat, zpow_add₀ two_ne_zero,
      mul_comm]
    have hmq : (m : ℚ) < 2 ^ (24 : ℤ) := by exact_mod_cast hm
    exact mul_lt_mul_of_pos_left hmq (zpow_pos two_pos _)
  obtain ⟨d, hd⟩ : ∃ d : ℕ, j = d + (binadeOf r - 23) :=
    ⟨(j - (binadeOf r - 23)).toNat, by unfold binadeOf; omega⟩
  refine ⟨m * 2 ^ d, ?_⟩
  rw [placeOf]
  conv_lhs => rw [hval, hd, zpow_add₀ two_ne_zero, zpow_natCast]
  push_cast
  ring

/-- `round32` leaves such a real alone: its significand needs no rounding, and does not carry. -/
theorem realOf_realRound32_of_exact (s : Bool) {r : ℚ} (hr : 0 ≤ r) {m : ℕ} {j : ℤ}
    (hval : r = m * 2 ^ j) (hm : m < 2 ^ 24) (hj : -149 ≤ j) (hlt : r < 2 ^ 128) :
    realOf fp32 (realRound32 s r).toNat = some ((-1) ^ s.toNat * r) := by
  rcases hr.eq_or_lt with rfl | hpos
  · rw [realOf_of_isZero _ _ (isZero_realRound32_zero s), mul_zero]
  obtain ⟨k, hk⟩ := exists_int_mul_placeOf hpos hval hm hj
  have hquot : r / placeOf r = k := by
    rw [div_eq_iff (placeOf_pos r).ne']
    exact hk
  have hsig : significandOf r = k := by rw [significandOf, hquot, rneInt_intCast]
  have hk24 : k < 2 ^ 24 := by exact_mod_cast hquot ▸ div_placeOf_lt r
  have hb : ¬ 128 ≤ binadeOf r := fun hb => absurd (two_pow_128_le hpos hb) (not_le.mpr hlt)
  obtain ⟨v, hv, habs, -⟩ := realRound32_value s hpos (by rw [realBits_eq]; omega)
  obtain ⟨hsign, -⟩ := sign_and_abs_of_realOf (by decide) (by decide) hv
  rw [hv, hsign, signOf_fp32_eq_msb, msb_realRound32 s hr, habs, hsig, ← hk]

/-- An FP32 pattern is the rounding of its own value. -/
theorem realRound32_abs_of_realOf {y : Word32} {v : ℚ} (hv : realOf fp32 y.toNat = some v) :
    realRound32 y.msb |v| = y := by
  obtain ⟨m, i, habs, hm, hi⟩ := exists_significand_of_realOf (by decide) (by decide) hv
  obtain ⟨hsign, -⟩ := sign_and_abs_of_realOf (by decide) (by decide) hv
  have hscale : unitScale fp32 = 149 := rfl
  have hmax : emax fp32 - 2 = 253 := rfl
  have hlt : |v| < 2 ^ 128 := by
    have hmq : (m : ℚ) < 2 ^ 24 := by exact_mod_cast hm
    calc |v| = m * 2 ^ ((i : ℤ) - unitScale fp32) := habs
      _ < 2 ^ 24 * 2 ^ ((i : ℤ) - unitScale fp32) := mul_lt_mul_of_pos_right hmq (zpow_pos two_pos _)
      _ ≤ 2 ^ 24 * 2 ^ (104 : ℤ) := by
        have hle : (i : ℤ) - unitScale fp32 ≤ 104 := by omega
        exact mul_le_mul_of_nonneg_left (zpow_le_zpow_right₀ one_le_two hle) (by positivity)
      _ = 2 ^ 128 := by norm_num
  have hexact := realOf_realRound32_of_exact y.msb (abs_nonneg v) habs hm (by omega) hlt
  rw [← signOf_fp32_eq_msb y, ← hsign, signOf_fp32_eq_msb] at hexact
  exact eq_of_realOf_eq hexact hv (msb_realRound32 _ (abs_nonneg v))

/-- From the smallest subnormal on nothing rounds to zero (R105). -/
theorem isZero_realRound32_of_le (s : Bool) {r : ℚ} (hr : 1 / 2 ^ 149 ≤ r) :
    isZero fp32 (realRound32 s r).toNat = false := by
  have hpos : 0 < r := lt_of_lt_of_le (by positivity) hr
  have hb := neg_126_le_binadeOf r
  obtain ⟨h0, -, -⟩ := significandOf_bounds hpos
  have hbits : 1 ≤ realBits r := by
    rw [realBits_eq]
    by_cases hsub : binadeOf r = -126
    · have hplace : placeOf r = 2 ^ 0 / 2 ^ 149 := placeOf_eq_units (by omega)
      have hone : 1 ≤ significandOf r := by
        refine le_rneInt ?_
        rw [Int.cast_one, le_div_iff₀ (placeOf_pos r), one_mul, hplace, pow_zero]
        exact hr
      omega
    · omega
  have hmod : (realRound32 s r).toNat % 2 ^ 31 ≠ 0 := by
    rw [realRound32_mod s hpos.le, roundedMagnitude, if_neg hpos.ne']
    omega
  rw [Bool.eq_false_iff, Ne, isZero_iff]
  rintro ⟨he, hm⟩
  obtain ⟨hmag, -⟩ := fp32_magnitude_eq (realRound32 s r)
  omega

end Sys2Proof.Machine
end

section
/-! PROOFS. The FP32 multiply and add in every class of their operands (R103, R104), and what follows
for the order of a sum, for sums that are not zero and for zeros added (R105). -/

namespace Sys2Proof.Machine

/-! ### The classes of an operand -/

theorem isNan_eq_false_of_isInf {F : FormatDesc} {x : ℕ} (h : isInf F x = true) :
    isNan F x = false := by
  have hclass : classOf F x = .infinity := by simpa [isInf] using h
  rw [isNan, hclass]
  rfl

theorem isFinite_of_isZero {F : FormatDesc} (hmax : 0 < emax F) {x : ℕ} (h : isZero F x = true) :
    isFinite F x = true := by
  obtain ⟨he, -⟩ := (isZero_iff F x).mp h
  exact (isFinite_iff F x).mpr (by omega)

theorem not_nan_and_not_inf_of_isFinite {F : FormatDesc} (hmax : 0 < emax F) {x : ℕ}
    (h : isFinite F x = true) : isNan F x = false ∧ isInf F x = false := by
  have hne := (isFinite_iff F x).mp h
  rw [Bool.eq_false_iff, Bool.eq_false_iff, Ne, Ne, isNan_iff F x hmax, isInf_iff F x hmax]
  exact ⟨fun hn => hne hn.1, fun hi => hne hi.1⟩

/-- An operand that is no NaN is an infinity or has a real value (R52, R53). -/
theorem isInf_or_isFinite {F : FormatDesc} (hmax : 0 < emax F) {x : ℕ} (h : isNan F x = false) :
    isInf F x = true ∨ isFinite F x = true := by
  cases hi : isInf F x with
  | true => exact .inl rfl
  | false => exact .inr (isFinite_of_not_inf_of_not_nan hmax hi h)

theorem exists_realOf {F : FormatDesc} (hmax : 0 < emax F) {x : ℕ} (h : isFinite F x = true) :
    ∃ v, realOf F x = some v :=
  Option.isSome_iff_exists.mp ((realOf_isSome F x hmax).trans h)

/-- A sign has one infinity and one zero (R52). -/
theorem eq_of_isInf_of_msb_eq {x y : Word32} (hx : isInf fp32 x.toNat = true)
    (hy : isInf fp32 y.toNat = true) (hmsb : x.msb = y.msb) : x = y := by
  obtain ⟨hex, hmx⟩ := (isInf_iff fp32 _ (by decide)).mp hx
  obtain ⟨hey, hmy⟩ := (isInf_iff fp32 _ (by decide)).mp hy
  exact eq_of_fieldsOf_fp32_eq (by
    rw [fieldsOf, fieldsOf, signOf_fp32_eq_msb, signOf_fp32_eq_msb, hmsb, hex, hmx, hey, hmy])

theorem eq_of_isZero_of_msb_eq {x y : Word32} (hx : isZero fp32 x.toNat = true)
    (hy : isZero fp32 y.toNat = true) (hmsb : x.msb = y.msb) : x = y :=
  eq_of_realOf_eq (realOf_of_isZero _ _ hx) (realOf_of_isZero _ _ hy) hmsb

/-! ### The product -/

theorem mul32_of_isNan (N : NanParams) {x y : Word32}
    (h : isNan fp32 x.toNat = true ∨ isNan fp32 y.toNat = true) :
    mul32 N x y = nanPattern (N.mul x y) := by
  rw [mul32, if_pos h]

theorem mul32_of_inf_mul_zero (N : NanParams) {x y : Word32}
    (h : isInf fp32 x.toNat = true ∧ isZero fp32 y.toNat = true ∨
      isZero fp32 x.toNat = true ∧ isInf fp32 y.toNat = true) :
    mul32 N x y = nanPattern (N.mul x y) := by
  have hinf : isInf fp32 x.toNat = true ∨ isInf fp32 y.toNat = true := h.imp And.left And.right
  have hzero : isZero fp32 x.toNat = true ∨ isZero fp32 y.toNat = true :=
    h.symm.imp And.left And.right
  simp only [mul32, if_pos hinf, if_pos hzero, ite_self]

theorem inf32_eq (s : Bool) : inf32 s = if s then 0xFF800000#32 else 0x7F800000#32 := by
  cases s <;> decide

theorem mul32_of_isInf (N : NanParams) {x y : Word32} (hnx : isNan fp32 x.toNat = false)
    (hny : isNan fp32 y.toNat = false) (hzx : isZero fp32 x.toNat = false)
    (hzy : isZero fp32 y.toNat = false)
    (hinf : isInf fp32 x.toNat = true ∨ isInf fp32 y.toNat = true) :
    mul32 N x y = inf32 (x.msb ^^ y.msb) := by
  simp only [mul32, hnx, hny, hzx, hzy, if_pos hinf, Bool.false_eq_true, or_self, if_false,
    sign32_eq_msb]

/-- Finite operands: the exact product, rounded once, with the exclusive-or of the signs (R103). -/
theorem mul32_of_realOf (N : NanParams) {x y : Word32} {u v : ℚ} (hu : realOf fp32 x.toNat = some u)
    (hv : realOf fp32 y.toNat = some v) :
    mul32 N x y = realRound32 (x.msb ^^ y.msb) (|u| * |v|) := by
  obtain ⟨hnx, hix⟩ :=
    not_nan_and_not_inf_of_isFinite (by decide) (isFinite_of_realOf (by decide) hu)
  obtain ⟨hny, hiy⟩ :=
    not_nan_and_not_inf_of_isFinite (by decide) (isFinite_of_realOf (by decide) hv)
  have hmul : mul32 N x y = round32 (x.msb ^^ y.msb)
      (unitsOf fp32 x.toNat * unitsOf fp32 y.toNat) (149 + 149) := by
    simp only [mul32, hnx, hny, hix, hiy, Bool.false_eq_true, or_self, if_false, sign32_eq_msb]
    rfl
  rw [hmul, roundThirtyTwoIsTheRealRounding, abs_of_realOf_fp32 hu, abs_of_realOf_fp32 hv,
    div_mul_div_comm, ← pow_add]
  push_cast
  rfl

/-- Settles O48: one equation a class. -/
theorem multiplyRoundsTheExactProduct : Obligations.MultiplyRoundsTheExactProduct := by
  refine fun N x y => ⟨mul32_of_isNan N, mul32_of_inf_mul_zero N, fun hnx hny hzx hzy hinf => ?_,
    fun u v hu hv => ?_⟩
  · rw [mul32_of_isInf N hnx hny hzx hzy hinf, inf32_eq]
  · have hmul := mul32_of_realOf N hu hv
    exact ⟨hmul, hmul ▸ msb_realRound32 _ (by positivity)⟩

/-! ### The sum -/

theorem add32_of_opposite_infs (N : NanParams) {x y : Word32} (hx : isInf fp32 x.toNat = true)
    (hy : isInf fp32 y.toNat = true) (hmsb : x.msb ≠ y.msb) :
    add32 N x y = nanPattern (N.add x y) := by
  simp only [add32, hx, hy, sign32_eq_msb, hmsb, and_self, if_true, ne_eq, not_false_eq_true,
    ite_self]

theorem add32_of_equal_infs (N : NanParams) {x y : Word32} (hx : isInf fp32 x.toNat = true)
    (hy : isInf fp32 y.toNat = true) (hmsb : x.msb = y.msb) : add32 N x y = x := by
  simp only [add32, isNan_eq_false_of_isInf hx, isNan_eq_false_of_isInf hy, hx, hy, sign32_eq_msb,
    hmsb, Bool.false_eq_true, or_self, and_self, if_true, if_false, ne_eq, not_true_eq_false]

theorem add32_of_inf_of_finite (N : NanParams) {x y : Word32} (hx : isInf fp32 x.toNat = true)
    (hy : isFinite fp32 y.toNat = true) : add32 N x y = x := by
  obtain ⟨hny, hiy⟩ := not_nan_and_not_inf_of_isFinite (by decide) hy
  simp only [add32, isNan_eq_false_of_isInf hx, hny, hx, hiy, Bool.false_eq_true, or_self, and_false,
    if_true, if_false]

theorem add32_of_finite_of_inf (N : NanParams) {x y : Word32} (hx : isFinite fp32 x.toNat = true)
    (hy : isInf fp32 y.toNat = true) : add32 N x y = y := by
  obtain ⟨hnx, hix⟩ := not_nan_and_not_inf_of_isFinite (by decide) hx
  simp only [add32, hnx, isNan_eq_false_of_isInf hy, hix, hy, Bool.false_eq_true, or_self, false_and,
    if_true, if_false]

/-- The value of a finite FP32 pattern in signed units (R53). -/
theorem eq_signedUnits_div {x : Word32} {u : ℚ} (hu : realOf fp32 x.toNat = some u) :
    u = signedUnits x / 2 ^ 149 := by
  obtain ⟨hsign, -⟩ := sign_and_abs_of_realOf (by decide) (by decide) hu
  rw [hsign, abs_of_realOf_fp32 hu, signOf_fp32_eq_msb, signedUnits, sign32_eq_msb]
  cases x.msb <;> simp [neg_div]

theorem add_eq_signedUnits_div {x y : Word32} {u v : ℚ} (hu : realOf fp32 x.toNat = some u)
    (hv : realOf fp32 y.toNat = some v) :
    u + v = ((signedUnits x + signedUnits y : ℤ) : ℚ) / 2 ^ 149 := by
  rw [eq_signedUnits_div hu, eq_signedUnits_div hv, ← add_div, Int.cast_add]

/-- A sum of finite operands, exact in units before it is rounded (R104). -/
theorem add32_of_finite (N : NanParams) {x y : Word32} (hx : isFinite fp32 x.toNat = true)
    (hy : isFinite fp32 y.toNat = true) :
    add32 N x y =
      if signedUnits x + signedUnits y = 0 then
        if isZero fp32 x.toNat ∧ isZero fp32 y.toNat ∧ x.msb = y.msb then x else 0#32
      else round32 (decide (signedUnits x + signedUnits y < 0))
        (signedUnits x + signedUnits y).natAbs 149 := by
  obtain ⟨hnx, hix⟩ := not_nan_and_not_inf_of_isFinite (by decide) hx
  obtain ⟨hny, hiy⟩ := not_nan_and_not_inf_of_isFinite (by decide) hy
  simp only [add32, hnx, hny, hix, hiy, Bool.false_eq_true, or_self, and_self, if_false,
    ← sign32_eq_msb]
  rfl

/-- A non-zero exact sum is rounded (R104). -/
theorem add32_of_sum_ne_zero (N : NanParams) {x y : Word32} {u v : ℚ}
    (hu : realOf fp32 x.toNat = some u) (hv : realOf fp32 y.toNat = some v) (hsum : u + v ≠ 0) :
    add32 N x y = realRound32 (decide (u + v < 0)) |u + v| := by
  have huv := add_eq_signedUnits_div hu hv
  rw [add32_of_finite N (isFinite_of_realOf (by decide) hu) (isFinite_of_realOf (by decide) hv)]
  rw [huv] at hsum ⊢
  generalize signedUnits x + signedUnits y = r at hsum ⊢
  have hr : r ≠ 0 := by
    rintro rfl
    simp at hsum
  have hneg : ((r : ℚ) / 2 ^ 149 < 0) ↔ r < 0 := by
    rw [div_lt_iff₀ (by positivity), zero_mul, Int.cast_lt_zero]
  have habs : ((r.natAbs : ℕ) : ℚ) / 2 ^ 149 = |(r : ℚ) / 2 ^ 149| := by
    rw [abs_div, abs_of_pos (by positivity : (0 : ℚ) < 2 ^ 149), Nat.cast_natAbs, Int.cast_abs]
  rw [if_neg hr, roundThirtyTwoIsTheRealRounding, habs]
  simp only [hneg]

/-- An exact zero sum is the operands' zero if they are zeros of one sign, and +0 otherwise (R104). -/
theorem add32_of_sum_eq_zero (N : NanParams) {x y : Word32} {u v : ℚ}
    (hu : realOf fp32 x.toNat = some u) (hv : realOf fp32 y.toNat = some v) (hsum : u + v = 0) :
    add32 N x y =
      if isZero fp32 x.toNat ∧ isZero fp32 y.toNat ∧ x.msb = y.msb then x else 0#32 := by
  have hr : signedUnits x + signedUnits y = 0 := by
    rw [add_eq_signedUnits_div hu hv, div_eq_zero_iff] at hsum
    exact_mod_cast hsum.resolve_right (by positivity)
  rw [add32_of_finite N (isFinite_of_realOf (by decide) hu) (isFinite_of_realOf (by decide) hv),
    if_pos hr]

/-- Settles O49: one equation a class. -/
theorem addRoundsTheExactSum : Obligations.AddRoundsTheExactSum := by
  refine fun N x y => ⟨add32_of_isNan N, add32_of_opposite_infs N, add32_of_equal_infs N,
    add32_of_inf_of_finite N, add32_of_finite_of_inf N, fun u v hu hv =>
    ⟨add32_of_sum_ne_zero N hu hv, fun hsum hzx hzy hmsb => ?_, fun hsum hnot => ?_⟩⟩
  · rw [add32_of_sum_eq_zero N hu hv hsum, if_pos ⟨hzx, hzy, hmsb⟩]
  · rw [add32_of_sum_eq_zero N hu hv hsum, if_neg hnot]

/-! ### Order, non-zero sums, and zeros -/

/-- Finite operands may be swapped: the exact sum is the same, and two zeros of one sign are one
pattern (R104). -/
theorem add32_comm_of_finite (N : NanParams) {x y : Word32} (hx : isFinite fp32 x.toNat = true)
    (hy : isFinite fp32 y.toNat = true) : add32 N x y = add32 N y x := by
  rw [add32_of_finite N hx hy, add32_of_finite N hy hx, add_comm (signedUnits y)]
  split
  · by_cases hzero : isZero fp32 x.toNat ∧ isZero fp32 y.toNat ∧ x.msb = y.msb
    · obtain ⟨hzx, hzy, hmsb⟩ := hzero
      rw [if_pos ⟨hzx, hzy, hmsb⟩, if_pos ⟨hzy, hzx, hmsb.symm⟩,
        eq_of_isZero_of_msb_eq hzx hzy hmsb]
    · rw [if_neg hzero, if_neg fun h => hzero ⟨h.2.1, h.1, h.2.2.symm⟩]
  · rfl

/-- The operands may be swapped where the result is no NaN (R104). -/
theorem add32_comm_of_not_nan (N : NanParams) {x y : Word32}
    (h : isNan fp32 (add32 N x y).toNat = false) : add32 N x y = add32 N y x := by
  have hoperands : ¬ (isNan fp32 x.toNat = true ∨ isNan fp32 y.toNat = true) := fun hnan => by
    rw [isNan_add32_of_isNan N hnan] at h
    cases h
  obtain ⟨hnx, hny⟩ := not_or.mp hoperands
  rcases isInf_or_isFinite (by decide) (Bool.eq_false_of_not_eq_true hnx) with hx | hx <;>
    rcases isInf_or_isFinite (by decide) (Bool.eq_false_of_not_eq_true hny) with hy | hy
  · by_cases hmsb : x.msb = y.msb
    · rw [eq_of_isInf_of_msb_eq hx hy hmsb]
    · rw [add32_of_opposite_infs N hx hy hmsb, isNan_nanPattern] at h
      cases h
  · rw [add32_of_inf_of_finite N hx hy, add32_of_finite_of_inf N hy hx]
  · rw [add32_of_finite_of_inf N hx hy, add32_of_inf_of_finite N hy hx]
  · exact add32_comm_of_finite N hx hy

/-- A non-zero sum of two patterns is at least the smallest subnormal (R105). -/
theorem isZero_add32_of_sum_ne_zero (N : NanParams) {x y : Word32} {u v : ℚ}
    (hu : realOf fp32 x.toNat = some u) (hv : realOf fp32 y.toNat = some v) (hsum : u + v ≠ 0) :
    isZero fp32 (add32 N x y).toNat = false := by
  rw [add32_of_sum_ne_zero N hu hv hsum]
  apply isZero_realRound32_of_le
  rw [add_eq_signedUnits_div hu hv] at hsum ⊢
  have hr : signedUnits x + signedUnits y ≠ 0 := fun h0 => hsum (by rw [h0, Int.cast_zero, zero_div])
  have hone : (1 : ℚ) ≤ |((signedUnits x + signedUnits y : ℤ) : ℚ)| := by
    exact_mod_cast Int.one_le_abs hr
  rw [abs_div, abs_of_pos (by positivity : (0 : ℚ) < 2 ^ 149)]
  exact div_le_div_of_nonneg_right hone (by positivity)

/-- Only the zeros have the value 0 (R53). -/
theorem ne_zero_of_isZero_eq_false {x : Word32} {v : ℚ} (hv : realOf fp32 x.toNat = some v)
    (h : isZero fp32 x.toNat = false) : v ≠ 0 := by
  rintro rfl
  have hzero : realOf fp32 (0#32).toNat = some 0 := realOf_of_isZero _ _ (by decide)
  have hunits : (unitsOf fp32 x.toNat : ℚ) / 2 ^ 149 = unitsOf fp32 (0#32).toNat / 2 ^ 149 := by
    rw [← abs_of_realOf_fp32 hv, ← abs_of_realOf_fp32 hzero]
  obtain ⟨he, hm⟩ := fields_eq_of_unitsOf_eq
    (Nat.cast_injective ((div_left_inj' (by positivity)).mp hunits))
  rw [(isZero_iff fp32 _).mpr ⟨he, hm⟩] at h
  cases h

/-- The sign bit of a non-zero value says whether it is negative (R53). -/
theorem decide_neg_eq_msb {x : Word32} {v : ℚ} (hv : realOf fp32 x.toNat = some v) (h0 : v ≠ 0) :
    decide (v < 0) = x.msb := by
  obtain ⟨hsign, -⟩ := sign_and_abs_of_realOf (by decide) (by decide) hv
  have hpos := abs_pos.mpr h0
  rw [signOf_fp32_eq_msb] at hsign
  cases hmsb : x.msb with
  | false =>
    rw [hmsb, Bool.toNat_false, pow_zero, one_mul] at hsign
    exact decide_eq_false (by linarith)
  | true =>
    rw [hmsb, Bool.toNat_true, pow_one, neg_one_mul] at hsign
    exact decide_eq_true (by linarith)

/-- A zero added leaves a finite non-zero number as it is (R104). -/
theorem add32_zero_left (N : NanParams) {x y : Word32} (hx : isZero fp32 x.toNat = true)
    (hy : isFinite fp32 y.toNat = true) (hy0 : isZero fp32 y.toNat = false) : add32 N x y = y := by
  obtain ⟨v, hv⟩ := exists_realOf (by decide) hy
  have hv0 := ne_zero_of_isZero_eq_false hv hy0
  rw [add32_of_sum_ne_zero N (realOf_of_isZero _ _ hx) hv (by rwa [zero_add]), zero_add,
    decide_neg_eq_msb hv hv0, realRound32_abs_of_realOf hv]

/-- Settles O50: the swap, the non-zero sum, and a zero on either side. -/
theorem addCommutesAndKeepsNonZero : Obligations.AddCommutesAndKeepsNonZero := by
  refine fun N x y => ⟨add32_comm_of_not_nan N, fun u v hu hv => isZero_add32_of_sum_ne_zero N hu hv,
    fun hx hy hy0 => ?_⟩
  have hleft := add32_zero_left N hx hy hy0
  exact ⟨hleft, (add32_comm_of_finite N hy (isFinite_of_isZero (by decide) hx)).trans hleft⟩

end Sys2Proof.Machine
end

section
/-! PROOFS. Products of narrow operands (R113), zero products (R114), and infinities and NaNs through
multiply and add (R115). -/

namespace Sys2Proof.Machine

/-! ### Exact products -/

/-- The real value of a narrow pattern is that of its widening (R66). -/
theorem realOf_widen (f : NarrowFmt) (x : Word16) :
    realOf fp32 (widen f x).toNat = realOf (narrowDesc f) x.toNat := by
  rw [realOf, realOf, valOf_widen]

/-- The product of two signed values, from the signs and the absolute values apart (R103). -/
theorem mul_eq_sign_mul_abs {x y : Word32} {u v : ℚ} (hu : realOf fp32 x.toNat = some u)
    (hv : realOf fp32 y.toNat = some v) :
    u * v = (-1) ^ (x.msb ^^ y.msb).toNat * (|u| * |v|) := by
  obtain ⟨hsu, -⟩ := sign_and_abs_of_realOf (by decide) (by decide) hu
  obtain ⟨hsv, -⟩ := sign_and_abs_of_realOf (by decide) (by decide) hv
  rw [signOf_fp32_eq_msb] at hsu hsv
  have hsign : (-1 : ℚ) ^ (x.msb ^^ y.msb).toNat = (-1) ^ x.msb.toNat * (-1) ^ y.msb.toNat := by
    cases x.msb <;> cases y.msb <;> norm_num
  rw [hsign]
  conv_lhs => rw [hsu, hsv]
  ring

/-- A product of 24 bits in FP32's range is exact (R103, R113). -/
theorem realOf_mul32_of_exact (N : NanParams) {x y : Word32} {u v : ℚ}
    (hu : realOf fp32 x.toNat = some u) (hv : realOf fp32 y.toNat = some v) {m : ℕ} {j : ℤ}
    (hval : |u| * |v| = m * 2 ^ j) (hm : m < 2 ^ 24) (hj : -149 ≤ j) (hlt : |u| * |v| < 2 ^ 128) :
    realOf fp32 (mul32 N x y).toNat = some (u * v) := by
  rw [mul32_of_realOf N hu hv, realOf_realRound32_of_exact _ (by positivity) hval hm hj hlt,
    mul_eq_sign_mul_abs hu hv]

/-- The product of two narrow significands, of at most 22 bits, and its place (R113). -/
theorem exists_product_significand (f : NarrowFmt) {a b : Word16} {u v : ℚ}
    (hu : realOf (narrowDesc f) a.toNat = some u) (hv : realOf (narrowDesc f) b.toNat = some v) :
    ∃ m i : ℕ, |u| * |v| = m * 2 ^ ((i : ℤ) - 2 * unitScale (narrowDesc f)) ∧
      m < 2 ^ (2 * ((narrowDesc f).M + 1)) ∧ i ≤ 2 * (emax (narrowDesc f) - 2) := by
  have hF : 0 < (narrowDesc f).bias + (narrowDesc f).M := by cases f <;> decide
  obtain ⟨m, i, hau, hm, hi⟩ := exists_significand_of_realOf hF (narrowDesc_emax_pos f) hu
  obtain ⟨n, k, hav, hn, hk⟩ := exists_significand_of_realOf hF (narrowDesc_emax_pos f) hv
  refine ⟨m * n, i + k, ?_, ?_, by omega⟩
  · have hexp : ((i + k : ℕ) : ℤ) - 2 * unitScale (narrowDesc f) =
        (i - unitScale (narrowDesc f)) + (k - unitScale (narrowDesc f)) := by
      push_cast
      ring
    rw [hau, hav, hexp, zpow_add₀ two_ne_zero]
    push_cast
    ring
  · rw [two_mul, Nat.pow_add]
    exact Nat.mul_lt_mul'' hm hn

theorem natCast_mul_two_zpow_lt {m w : ℕ} {j : ℤ} (hm : m < 2 ^ w) :
    (m : ℚ) * 2 ^ j < 2 ^ (w + j) := by
  rw [zpow_add₀ two_ne_zero, zpow_natCast]
  exact mul_lt_mul_of_pos_right (by exact_mod_cast hm) (zpow_pos two_pos _)

/-- Settles O55: FP16 products are in range whatever they are, and a BF16 product of 16 bits that is not
below `2 ^ -126` has its last place above the smallest subnormal's. -/
theorem productsAreExactForFp16AndInBf16NormalRange :
    Obligations.ProductsAreExactForFp16AndInBf16NormalRange := by
  intro N f a b u v hu hv hrange
  obtain ⟨m, i, hval, hm, hi⟩ := exists_product_significand f hu hv
  have hlt := natCast_mul_two_zpow_lt (j := (i : ℤ) - 2 * unitScale (narrowDesc f)) hm
  rw [← hval] at hlt
  rw [← realOf_widen] at hu hv
  cases f
  case fp16 =>
    have hscale : unitScale (narrowDesc .fp16) = 24 := rfl
    have hmax : emax (narrowDesc .fp16) = 31 := rfl
    have hM : (narrowDesc .fp16).M = 10 := rfl
    rw [hM] at hm hlt
    refine realOf_mul32_of_exact N hu hv hval (by omega) (by omega) (hlt.trans_le ?_)
    exact (zpow_le_zpow_right₀ one_le_two (by omega)).trans_eq (zpow_natCast 2 128)
  case bf16 =>
    have hscale : unitScale (narrowDesc .bf16) = 133 := rfl
    have hM : (narrowDesc .bf16).M = 7 := rfl
    rw [hM] at hm hlt
    obtain ⟨hlow, hhigh⟩ := hrange rfl
    rw [abs_mul] at hlow hhigh
    have hplace : (2 : ℚ) ^ (-126 : ℤ) < 2 ^ (((2 * (7 + 1) : ℕ) : ℤ) +
        ((i : ℤ) - 2 * unitScale (narrowDesc .bf16))) := by
      refine lt_of_le_of_lt ?_ hlt
      rwa [zpow_neg, ← one_div]
    have hj := (zpow_lt_zpow_iff_right₀ one_lt_two).mp hplace
    exact realOf_mul32_of_exact N hu hv hval (by omega) (by omega) hhigh

/-! ### Zero products -/

theorem realRound32_zero_eq (s : Bool) :
    realRound32 s 0 = if s then 0x80000000#32 else 0x00000000#32 := by
  apply BitVec.eq_of_toNat_eq
  rw [realRound32_zero_toNat]
  cases s <;> rfl

/-- Finite operands one of which is a zero (R103, R114). -/
theorem mul32_of_isZero (N : NanParams) {x y : Word32} (hx : isFinite fp32 x.toNat = true)
    (hy : isFinite fp32 y.toNat = true)
    (h : isZero fp32 x.toNat = true ∨ isZero fp32 y.toNat = true) :
    mul32 N x y = if x.msb ^^ y.msb then 0x80000000#32 else 0x00000000#32 := by
  obtain ⟨u, hu⟩ := exists_realOf (by decide) hx
  obtain ⟨v, hv⟩ := exists_realOf (by decide) hy
  have hprod : |u| * |v| = 0 := by
    obtain hzero | hzero := h
    · rw [realOf_of_isZero _ _ hzero, Option.some_inj] at hu
      rw [← hu, abs_zero, zero_mul]
    · rw [realOf_of_isZero _ _ hzero, Option.some_inj] at hv
      rw [← hv, abs_zero, mul_zero]
  rw [mul32_of_realOf N hu hv, hprod, realRound32_zero_eq]

/-- The sum of two zeros (R104). -/
theorem add32_of_zeros (N : NanParams) {x y : Word32} (hx : isZero fp32 x.toNat = true)
    (hy : isZero fp32 y.toNat = true) : add32 N x y = if x.msb = y.msb then x else 0#32 := by
  rw [add32_of_sum_eq_zero N (realOf_of_isZero _ _ hx) (realOf_of_isZero _ _ hy) (add_zero 0)]
  simp only [hx, hy, true_and]

/-- Settles O56: a zero product is one of the two zeros, and those added are sums of zeros or leave `c`
alone; the values of the rule meet no NaN. -/
theorem zeroProductsAndTheirSigns : Obligations.ZeroProductsAndTheirSigns := by
  refine ⟨fun N x y hx hy hzero => ?general, fun N => ⟨?_, ?_, ?_, ?_⟩⟩
  case general =>
    rw [mul32_of_isZero N hx hy hzero]
    generalize (x.msb ^^ y.msb) = s
    have hs : isZero fp32 (if s then 0x80000000#32 else 0x00000000#32 : Word32).toNat = true := by
      cases s <;> decide
    refine ⟨rfl, fun c => add32_zero_left N hs, ?_, ?_⟩
    · rw [add32_of_zeros N hs (by decide)]
      cases s <;> decide
    · rw [add32_of_zeros N hs (by decide)]
      cases s <;> decide
  · exact add32_mul32_eq_of_refNan (p := 0x3F800000#32) (by decide +kernel) N
  · exact add32_mul32_eq_of_refNan (p := 0xBF800000#32) (by decide +kernel) N
  · exact fmaNarrow_eq_of_refNan (by decide +kernel) N
  · exact fmaNarrow_eq_of_refNan (by decide +kernel) N

/-! ### Infinities and NaNs -/

/-- Infinity times zero is a NaN, and stays one in the sum (R115). -/
theorem isNan_add32_mul32_of_inf_mul_zero (N : NanParams) {a b : Word32} (c : Word32)
    (h : isInf fp32 a.toNat = true ∧ isZero fp32 b.toNat = true ∨
      isZero fp32 a.toNat = true ∧ isInf fp32 b.toNat = true) :
    isNan fp32 (add32 N (mul32 N a b) c).toNat = true := by
  apply isNan_add32_of_isNan N
  rw [mul32_of_inf_mul_zero N h]
  exact .inl (isNan_nanPattern _)

/-- A NaN operand makes the result a NaN (R115). -/
theorem isNan_add32_mul32_of_isNan (N : NanParams) {a b c : Word32}
    (h : isNan fp32 a.toNat = true ∨ isNan fp32 b.toNat = true ∨ isNan fp32 c.toNat = true) :
    isNan fp32 (add32 N (mul32 N a b) c).toNat = true := by
  apply isNan_add32_of_isNan N
  rw [← or_assoc] at h
  refine h.imp_left fun hab => ?_
  rw [mul32_of_isNan N hab]
  exact isNan_nanPattern _

theorem isNan_add32_of_opposite_infs (N : NanParams) {x y : Word32} (hx : isInf fp32 x.toNat = true)
    (hy : isInf fp32 y.toNat = true) (hmsb : x.msb ≠ y.msb) :
    isNan fp32 (add32 N x y).toNat = true := by
  rw [add32_of_opposite_infs N hx hy hmsb]
  exact isNan_nanPattern _

/-- Settles O57: the classes of the product and of `c`; the values of the rule meet no NaN but the one
that two opposite infinities give. -/
theorem infinitiesAndNansOfTheSum : Obligations.InfinitiesAndNansOfTheSum := by
  refine ⟨fun N a b c => ⟨isNan_add32_mul32_of_inf_mul_zero N c, isNan_add32_mul32_of_isNan N,
    add32_of_inf_of_finite N, fun hp hc => ⟨fun hmsb => ?_, isNan_add32_of_opposite_infs N hp hc⟩,
    add32_of_finite_of_inf N⟩, fun N o => ⟨?_, ?_, ?_⟩⟩
  · rw [add32_of_equal_infs N hp hc hmsb]
    exact eq_of_isInf_of_msb_eq hp hc hmsb
  · rw [mul32_eq_of_refNan (p := 0x7F800000#32) (by decide +kernel) N]
    exact isNan_add32_of_opposite_infs N (by decide) (by decide) (by decide)
  · exact add32_mul32_eq_of_refNan (p := 0x7F800000#32) (by decide +kernel) N
  · exact fmaNarrow_eq_of_refNan (by cases o <;> decide +kernel) N

end Sys2Proof.Machine
end

section
/-! PROOFS. The comparison policies (R131 to R134): each policy's verdict, case by case, and from it
what the policy passes and reports. -/

namespace Sys2Proof.Machine

/-! ### Patterns and parameters -/

theorem patternOf_eq_mod (F : FormatDesc) (w : Word32) : patternOf F w = w.toNat % 2 ^ F.W := rfl

theorem ulpTol_eq_ite (T : Tolerances) (f : Fmt) :
    ulpTol T f = if f = .fp32 then T.ulpTolFp32 else T.ulpTol16 := by
  cases f <;> rfl

theorem relThresh_eq_ite (T : Tolerances) (f : Fmt) :
    relThresh T f = if f = .fp32 then T.relThreshFp32 else T.relThresh16 := by
  cases f <;> rfl

/-! ### Precise and ULP -/

theorem comparePrecise_pass_iff (F : FormatDesc) (x y : Word32) :
    (comparePrecise F x y).pass = true ↔ patternOf F x = patternOf F y := beq_iff_eq

theorem compareUlp_pass_iff (T : Tolerances) (f : Fmt) (x y : Word32) :
    (compareUlp T f x y).pass = true ↔
      (sint (descOf f).W (patternOf (descOf f) x)
        - sint (descOf f).W (patternOf (descOf f) y)).natAbs ≤ ulpTol T f := decide_eq_true_iff

/-- Settles O59: equality of patterns decides Precise; the distance ULP reports is the one its bound
is on. -/
theorem preciseAndUlpPolicies : Obligations.PreciseAndUlpPolicies := by
  intro T f a b c x y
  simp only [← patternOf_eq_mod, ← ulpTol_eq_ite]
  exact ⟨comparePrecise_pass_iff (descOf f) x y, rfl, _, Int.natCast_natAbs _, rfl,
    compareUlp_pass_iff T f x y⟩

/-! ### RelativeError -/

/-- An exact match passes whatever the values are (R133). -/
theorem compareRel_of_patternOf_eq (T : Tolerances) (f : Fmt) (a b c : Word32) {x y : Word32}
    (h : patternOf (descOf f) x = patternOf (descOf f) y) :
    compareRel T f a b c x y = ⟨true, .absent⟩ := if_pos h

/-- Distinct patterns fail when one of the five quantities is no finite real (R134). -/
theorem compareRel_of_not_isFinite (T : Tolerances) (f : Fmt) {a b c x y : Word32}
    (h : patternOf (descOf f) x ≠ patternOf (descOf f) y)
    (hfin : ∃ w ∈ [x, y, a, b, c], isFinite (descOf f) (patternOf (descOf f) w) = false) :
    compareRel T f a b c x y = ⟨false, .absent⟩ := by
  rw [compareRel, if_neg h]
  split
  case h_1 hx hy ha hb hc =>
    have hreal {p : Nat} {v : ℚ} (hp : realOf (descOf f) p = some v) :
        isFinite (descOf f) p = true :=
      isFinite_of_realOf (descOf_emax_pos f) hp
    simp [hreal hx, hreal hy, hreal ha, hreal hb, hreal hc] at hfin
  case h_2 => rfl

/-- Distinct patterns of real quantities: the zero denominator of R134, or the ratio of R133. -/
theorem compareRel_of_realOf (T : Tolerances) (f : Fmt) {a b c x y : Word32}
    {cf rf va vb vc den : ℚ}
    (h : patternOf (descOf f) x ≠ patternOf (descOf f) y)
    (hx : realOf (descOf f) (patternOf (descOf f) x) = some cf)
    (hy : realOf (descOf f) (patternOf (descOf f) y) = some rf)
    (ha : realOf (descOf f) (patternOf (descOf f) a) = some va)
    (hb : realOf (descOf f) (patternOf (descOf f) b) = some vb)
    (hc : realOf (descOf f) (patternOf (descOf f) c) = some vc)
    (hden : den = max |va * vb| |vc|) :
    compareRel T f a b c x y =
      if den = 0 then ⟨false, .absent⟩
      else ⟨decide (|cf - rf| / den < relThreshAt T f den), .relError (|cf - rf| / den)⟩ := by
  simp only [compareRel, if_neg h, hx, hy, ha, hb, hc, hden]

/-- Settles O60: the exact match, the quantity that is no real, and the two cases of the
denominator. -/
theorem relativeErrorPolicy : Obligations.RelativeErrorPolicy := by
  intro T f a b c x y pat hpat
  obtain rfl : pat = patternOf (descOf f) :=
    funext fun w => (hpat w).trans (patternOf_eq_mod _ w).symm
  refine ⟨fun heq => ?exact, fun hne hfin => ?notReal, ?ratio⟩
  case exact => exact congrArg Verdict.pass (compareRel_of_patternOf_eq T f a b c heq)
  case notReal => exact congrArg Verdict.pass (compareRel_of_not_isFinite T f hne hfin)
  case ratio =>
    intro cf rf va vb vc den hne hx hy ha hb hc hden
    simp only [compareBits, compareRel_of_realOf T f hne hx hy ha hb hc hden]
    refine ⟨fun hzero => ?_, fun hnonzero => ?_⟩
    · rw [if_pos hzero]
    · rw [if_neg hnonzero, ← relThresh_eq_ite]
      exact ⟨decide_eq_true_iff, rfl⟩

end Sys2Proof.Machine
end

section
/-! PROOFS. A reserved command faults, and past the fault it is answered in its turn (R141, R142,
R144). -/

namespace Sys2Proof.Machine

/-- The three causes of R141, read on the request's ports: none leaves the decoder an instruction,
and no operand takes part. -/
theorem decode_error_of_reserved {r : Request}
    (h : r.op = 3#2 ∨ r.fmt = 3#2 ∨ (r.fmt = 0#2 ∧ (r.op = 1#2 ∨ r.op = 2#2))) :
    ∃ e, decode (cmdOf r) = .error e := by
  cases hdec : decode (cmdOf r) with
  | error e => exact ⟨e, rfl⟩
  | ok i =>
    have hill : ¬ cmdWellFormed (cmdOf r) = true :=
      (not_wellFormed_iff_reserved _).mpr
        (by simpa only [cmdOf, cmdOp_packCmd, cmdFmt_packCmd] using h)
    exact absurd (legalRequest_of_decode hdec) hill

/-- A request whose command does not decode is the fault of its command (R142). -/
theorem step_fault_of_decode_error {s : State} {r : Request} {rest : List HostEvent}
    {e : DecodeError} (hhost : s.host = .request r :: rest) (hdec : decode (cmdOf r) = .error e) :
    step s = .fault (.illegalCommand (cmdOf r)) := by
  simp only [step, hhost, hdec]

/-- Past its fault such a request is sampled and the fault's answer takes its turn (R142, R145). -/
theorem proceed_of_decode_error {s : State} {r : Request} {rest : List HostEvent}
    {e : DecodeError} (hhost : s.host = .request r :: rest) (hdec : decode (cmdOf r) = .error e) :
    proceed s = takeIllegalCommand (sampleRequest s r rest) := by
  rw [proceed_request s r rest hhost, answer_of_decode_error Config.nan hdec, takeIllegalCommand]

/-- Settles O6: the command does not decode, so the step faults, and sampling the request and taking
the fault is the update of the state that the statement writes out. -/
theorem reservedCommandFaultsInItsTurn : Obligations.ReservedCommandFaultsInItsTurn := by
  intro s r rest hhost hreserved
  obtain ⟨e, hdec⟩ := decode_error_of_reserved hreserved
  exact ⟨step_fault_of_decode_error hhost hdec, proceed_of_decode_error hhost hdec⟩

end Sys2Proof.Machine
end

section
/-! PROOFS. A reset in the run: what is in flight is dropped (R150 to R152). -/

namespace Sys2Proof.Machine

/-- A sampled reset drops what is in flight and does not stop the block (R150, R151). -/
theorem step_reset {s : State} {rest : List HostEvent} (h : s.host = .reset :: rest) :
    step s = .next (resetBlock (takeEvent s rest)) := by
  simp only [step, h]

/-- Settles O13: the step is `resetBlock`, which empties the pending responses and cuts the accepted
requests where the delivered responses end; the ports are those after a reset. -/
theorem resetDropsWhatIsInFlight : Obligations.ResetDropsWhatIsInFlight := by
  intro s rest hhost
  refine ⟨resetBlock (takeEvent s rest), step_reset hhost, resetBlock_pending _,
    resetBlock_delivered _, resetBlock_host _, resetBlock_req _, resetBlock_accepted _, ?_, ?_⟩
  · exact rspValid_of_afterReset (resetBlock_rsp _)
  · exact rspErr_of_afterReset (resetBlock_rsp _)

end Sys2Proof.Machine
end
